-- ==== Sys2Proof/Word.lean ====
section
/-! DEFINITION. The word types of the block (spec/00_scope.md R8). -/

namespace Sys2Proof

/-- A byte, 8 bits (R8). -/
abbrev Byte := BitVec 8

/-- A Modbus register, 16 bits, an unsigned value (R8); also every 16-bit register of the block. -/
abbrev Reg16 := BitVec 16

/-- A command word, 32 bits (R80). -/
abbrev CmdWord := BitVec 32

/-- The 64-bit two's-complement mantissa of a typed value (R29). -/
abbrev Mantissa := BitVec 64

end Sys2Proof
end

