-- ==== Sys2Proof/Config.lean ====
section
/-! DEFINITION. The configuration of the block: the implementation parameters of spec/00_scope.md R6 and the
rule-table records of spec/30_encoding.md R86 to R88. It is the argument `Config` of R170's step function;
the block's state does not hold it (R38): `blockStep` takes it, and `State.cfg` is where the
one-argument `step` finds it (log 2). The block has no free value
(spec/93_implementation_defined.md: "No behaviour of the block is `any value`"), so this file holds none. -/

namespace Sys2Proof

/-- The seven extraction primitives, kind codes 0 to 6 (R88). Code 7 is reserved and has no constructor. -/
inductive Kind where
  | u16 | s16 | u32h | u32l | hib | lob | bit
  deriving DecidableEq, Repr

/-- A field descriptor as the table holds it (R87), before any check: `kind`, `idx`, `k` and `sc` are raw numbers,
so that an ill-formed table can be written down and refused (R89). -/
structure FieldDesc where
  fid : Reg16
  kind : Nat
  idx : Nat
  k : Nat
  sc : Nat
  deriving DecidableEq, Repr

/-- A rule record (R86); `(addr, minCount)` is its key. -/
structure Rule where
  addr : Reg16
  minCount : Nat
  blockId : Reg16
  fields : List FieldDesc
  deriving DecidableEq, Repr

/-- The open parameters `BUF_CAP`, `FO_CAP`, `RT_CAP` and `RULES` (R6). -/
structure Config where
  bufCap : Nat
  foCap : Nat
  rtCap : Nat
  rules : List Rule
  deriving DecidableEq, Repr

/-- The spec's default capacities (R6: 512, 32, 64) with the empty table.
DESIGN CHOICE (log 3): R6 gives RULES no default; the empty table is well-formed (R202). Unsafe for a claim about
reset's own table; every statement of the package is for every configuration. -/
def Config.default : Config := { bufCap := 512, foCap := 32, rtCap := 64, rules := [] }

end Sys2Proof
end

