-- ==== Sys2Proof/Syntax.lean ====
section
/-! DEFINITION. The instructions: one constructor per row of spec/opcode_table.json (17 commands of
spec/30_encoding.md R81 and 5 frame layouts of R71 to R75), and the three forms in which their bits reach the block. -/

namespace Sys2Proof

/-- One constructor per row of the opcode table, operands already pulled out of their fields. -/
inductive Instr where
  /-- `CRC.INIT` (R102). -/
  | crcInit
  /-- `CRC.BYTE b`, b = field A (R103). -/
  | crcByte (b : Byte)
  /-- `CRC.BUF` (R104). -/
  | crcBuf
  /-- `ENC.RD` (R111). -/
  | encRd
  /-- `ENC.WS` (R112). -/
  | encWs
  /-- `ENC.WM` (R113). -/
  | encWm
  /-- `DEC.REQ` (R121). -/
  | decReq
  /-- `DEC.RSP` (R122). -/
  | decRsp
  /-- `EXT.U16 idx, sc`, fields A and SC (R142). -/
  | extU16 (idx : Byte) (sc : BitVec 2)
  /-- `EXT.S16 idx, sc` (R143). -/
  | extS16 (idx : Byte) (sc : BitVec 2)
  /-- `EXT.U32H idx, sc` (R144). -/
  | extU32H (idx : Byte) (sc : BitVec 2)
  /-- `EXT.U32L idx, sc` (R145). -/
  | extU32L (idx : Byte) (sc : BitVec 2)
  /-- `EXT.HIB idx` (R146). -/
  | extHib (idx : Byte)
  /-- `EXT.LOB idx` (R147). -/
  | extLob (idx : Byte)
  /-- `EXT.BIT idx, k`, fields A and B (R148). -/
  | extBit (idx : Byte) (k : BitVec 4)
  /-- `RDE.DECODE fc`, field A (R151). -/
  | rdeDecode (fc : Byte)
  /-- `SRESET` (R174). -/
  | sreset
  /-- `FRAME.READ_REQ` (R71): unitId, startAddress, quantity, and the checksum the frame carries, right or wrong. -/
  | frameReadReq (unit : Byte) (addr qty crc : Reg16)
  /-- `FRAME.WRITE_SINGLE_REQ` (R72). -/
  | frameWriteSingleReq (unit : Byte) (addr value crc : Reg16)
  /-- `FRAME.WRITE_MULTIPLE_REQ` (R73); quantity and byteCount are n and 2n for the n values. -/
  | frameWriteMultipleReq (unit : Byte) (addr : Reg16) (values : List Reg16) (crc : Reg16)
  /-- `FRAME.NORMAL_RSP` (R74): the registers, then the bytes R78 admits between the layout and the last two bytes. -/
  | frameNormalRsp (unit fc : Byte) (regs : List Reg16) (extra : List Byte) (crc : Reg16)
  /-- `FRAME.EXCEPTION_RSP` (R75): the exception code, then the bytes R78 admits before the last two bytes. -/
  | frameExceptionRsp (unit fc exc : Byte) (extra : List Byte) (crc : Reg16)
  deriving DecidableEq, Repr

/-- The bits of one instruction as they reach the block: a command word at the `CMD` port (R80), or a frame on the
wire, first byte first (R70). Requests and responses share function codes (R77), so the side a frame came from is
part of its form (log 5). -/
inductive Code where
  | cmd (w : CmdWord)
  | req (bytes : List Byte)
  | rsp (bytes : List Byte)
  deriving DecidableEq, Repr

/-- Why the decoder refuses a code. For a command word every reason is the one outcome `IllegalCommand` (R82). -/
inductive Reject where
  /-- The word's `OPC` is in no row of the opcode map (R82). -/
  | unknownOpcode (opc : Byte)
  /-- The word's `RSV` field is not zero (R82). -/
  | reservedNotZero
  /-- A field the command does not use is not zero (R82). -/
  | unusedFieldNotZero
  /-- The sequence is shorter than its layout (R71 to R75). -/
  | frameTooShort
  /-- The sequence has another length than its fixed layout (R71, R72, R73). -/
  | frameLength
  /-- Byte 1 is no request's function code (R77). -/
  | notARequest (fc : Byte)
  /-- Quantity and byteCount do not agree (R73), or the byte count is odd (R74). -/
  | byteCount
  /-- The sequence has more bytes than the 16-bit `IBLEN` can count (R23). -/
  | frameTooLong
  deriving DecidableEq, Repr

/-- What the decoder answers. -/
inductive Decoded where
  | instr (i : Instr)
  | rejected (r : Reject)
  deriving DecidableEq, Repr

/-- The 17 commands, as against the 5 frame layouts. -/
def Instr.isCommand : Instr → Bool
  | .frameReadReq .. => false
  | .frameWriteSingleReq .. => false
  | .frameWriteMultipleReq .. => false
  | .frameNormalRsp .. => false
  | .frameExceptionRsp .. => false
  | .crcInit => true
  | .crcByte _ => true
  | .crcBuf => true
  | .encRd => true
  | .encWs => true
  | .encWm => true
  | .decReq => true
  | .decRsp => true
  | .extU16 .. => true
  | .extS16 .. => true
  | .extU32H .. => true
  | .extU32L .. => true
  | .extHib _ => true
  | .extLob _ => true
  | .extBit .. => true
  | .rdeDecode _ => true
  | .sreset => true

end Sys2Proof
end

