-- ==== Sys2Proof/WellFormed.lean ====
section
/-! DEFINITION. Which terms of `Instr` some encoding stands for. The fields of a command have the widths of
spec/30_encoding.md R80, so every command is well-formed: the operand values R83 names (`SC` 2 or 3, `B` above 7)
are legal encodings. A frame is well-formed when its layout can state it. -/

namespace Sys2Proof

/-- Bit 7 of a function code, which marks an exception response (R75). -/
def isExceptionCode (fc : Byte) : Bool := fc.getLsbD 7

/-- The layout's checks: at most 127 values or registers (R73, R74), bit 7 of the function code as the row has it
(R74, R75), and a length the 16-bit `IBLEN` can hold (R23). -/
def Instr.wf : Instr → Bool
  | .frameWriteMultipleReq _ _ values _ => decide (values.length ≤ 127)
  | .frameNormalRsp _ fc regs extra _ =>
      !isExceptionCode fc && decide (regs.length ≤ 127) && decide (5 + 2 * regs.length + extra.length ≤ 65535)
  | .frameExceptionRsp _ fc _ extra _ => isExceptionCode fc && decide (5 + extra.length ≤ 65535)
  | .frameReadReq .. => true
  | .frameWriteSingleReq .. => true
  | .crcInit => true
  | .crcByte _ => true
  | .crcBuf => true
  | .encRd => true
  | .encWs => true
  | .encWm => true
  | .decReq => true
  | .decRsp => true
  | .extU16 .. => true
  | .extS16 .. => true
  | .extU32H .. => true
  | .extU32L .. => true
  | .extHib _ => true
  | .extLob _ => true
  | .extBit .. => true
  | .rdeDecode _ => true
  | .sreset => true

end Sys2Proof
end

