-- ==== Sys2Proof/Decode.lean ====
section
/-! DEFINITION. The decoder, the byte-order helpers it uses, and after it the encoder. The command words follow the
opcode map of spec/30_encoding.md R81, row by row; the frames follow R71 to R75. -/

namespace Sys2Proof

/-! ### Bytes and fields (R8, R51, R52, R80) -/

/-- `hi8(r) = r[15:8]` (R8). -/
def hi8 (r : Reg16) : Byte := (r >>> 8).setWidth 8

/-- `lo8(r) = r[7:0]` (R8). -/
def lo8 (r : Reg16) : Byte := r.setWidth 8

/-- `be16(h, l) = (h << 8) | l` (R8). -/
def be16 (h l : Byte) : Reg16 := (h.setWidth 16 <<< 8) ||| l.setWidth 16

/-- A sequence of 16-bit values, each big-endian (R51). -/
def beBytes : List Reg16 → List Byte
  | [] => []
  | v :: vs => hi8 v :: lo8 v :: beBytes vs

/-- Bytes read two at a time as big-endian values (R74); a last odd byte gives none. -/
def beRegs : List Byte → List Reg16
  | h :: l :: bs => be16 h l :: beRegs bs
  | _ => []

/-- The checksum as a frame carries it, low byte first (R52). -/
def crcBytes (c : Reg16) : List Byte := [lo8 c, hi8 c]

/-- A sequence split into all but its last two bytes and the checksum those two carry (R70, R52). -/
def splitCrc : List Byte → Option (List Byte × Reg16)
  | [] => none
  | [_] => none
  | [c0, c1] => some ([], be16 c1 c0)
  | b :: c :: d :: bs => (splitCrc (c :: d :: bs)).map fun p => (b :: p.1, p.2)

/-- `OPC = w[7:0]` (R80). -/
def fieldOpc (w : CmdWord) : Byte := w.setWidth 8

/-- `A = w[15:8]` (R80). -/
def fieldA (w : CmdWord) : Byte := (w >>> 8).setWidth 8

/-- `B = w[19:16]` (R80). -/
def fieldB (w : CmdWord) : BitVec 4 := (w >>> 16).setWidth 4

/-- `SC = w[21:20]` (R80). -/
def fieldSc (w : CmdWord) : BitVec 2 := (w >>> 20).setWidth 2

/-- `RSV = w[31:22]` (R80). -/
def fieldRsv (w : CmdWord) : BitVec 10 := (w >>> 22).setWidth 10

/-! ### The opcode map (R81) -/

/-- A row of R81: the word is this command when `w & mask = pattern`; `build` reads the fields the command uses. -/
structure OpRow where
  mask : CmdWord
  pattern : CmdWord
  build : CmdWord → Instr

/-- Whether a word matches a row (R81). -/
def OpRow.holds (r : OpRow) (w : CmdWord) : Bool := decide (w &&& r.mask = r.pattern)

/-- The 17 rows of R81, in its order. -/
def opcodeMap : List OpRow :=
  [ ⟨0xFFFFFFFF#32, 0x00000001#32, fun _ => .crcInit⟩,
    ⟨0xFFFF00FF#32, 0x00000002#32, fun w => .crcByte (fieldA w)⟩,
    ⟨0xFFFFFFFF#32, 0x00000003#32, fun _ => .crcBuf⟩,
    ⟨0xFFFFFFFF#32, 0x00000010#32, fun _ => .encRd⟩,
    ⟨0xFFFFFFFF#32, 0x00000011#32, fun _ => .encWs⟩,
    ⟨0xFFFFFFFF#32, 0x00000012#32, fun _ => .encWm⟩,
    ⟨0xFFFFFFFF#32, 0x00000020#32, fun _ => .decReq⟩,
    ⟨0xFFFFFFFF#32, 0x00000021#32, fun _ => .decRsp⟩,
    ⟨0xFFCF00FF#32, 0x00000030#32, fun w => .extU16 (fieldA w) (fieldSc w)⟩,
    ⟨0xFFCF00FF#32, 0x00000031#32, fun w => .extS16 (fieldA w) (fieldSc w)⟩,
    ⟨0xFFCF00FF#32, 0x00000032#32, fun w => .extU32H (fieldA w) (fieldSc w)⟩,
    ⟨0xFFCF00FF#32, 0x00000033#32, fun w => .extU32L (fieldA w) (fieldSc w)⟩,
    ⟨0xFFFF00FF#32, 0x00000034#32, fun w => .extHib (fieldA w)⟩,
    ⟨0xFFFF00FF#32, 0x00000035#32, fun w => .extLob (fieldA w)⟩,
    ⟨0xFFF000FF#32, 0x00000036#32, fun w => .extBit (fieldA w) (fieldB w)⟩,
    ⟨0xFFFF00FF#32, 0x00000038#32, fun w => .rdeDecode (fieldA w)⟩,
    ⟨0xFFFFFFFF#32, 0x0000007F#32, fun _ => .sreset⟩ ]

/-- Which of R82's three conditions makes a word that matches no row illegal. -/
def rejectReason (w : CmdWord) : Reject :=
  if opcodeMap.any (fun r => decide (fieldOpc r.pattern = fieldOpc w)) then
    if fieldRsv w = 0 then .unusedFieldNotZero else .reservedNotZero
  else .unknownOpcode (fieldOpc w)

/-- The command a 32-bit word stands for (R81, R173), or the reason it is illegal (R82). -/
def decodeCommand (w : CmdWord) : Decoded :=
  match opcodeMap.find? (fun r => r.holds w) with
  | some r => .instr (r.build w)
  | none => .rejected (rejectReason w)

/-! ### Frames (R71 to R75) -/

/-- The request frame a byte sequence is, by its function code (R71, R72, R73). -/
def decodeRequest : List Byte → Decoded
  | u :: f :: bs =>
    if f = 0x03#8 then
      match bs with
      | [a1, a0, q1, q0, c0, c1] => .instr (.frameReadReq u (be16 a1 a0) (be16 q1 q0) (be16 c1 c0))
      | _ => .rejected .frameLength
    else if f = 0x06#8 then
      match bs with
      | [a1, a0, v1, v0, c0, c1] => .instr (.frameWriteSingleReq u (be16 a1 a0) (be16 v1 v0) (be16 c1 c0))
      | _ => .rejected .frameLength
    else if f = 0x10#8 then
      match bs with
      | a1 :: a0 :: q1 :: q0 :: b :: tail =>
        if b.toNat = 2 * (be16 q1 q0).toNat then
          match tail.drop b.toNat with
          | [c0, c1] => .instr (.frameWriteMultipleReq u (be16 a1 a0) (beRegs (tail.take b.toNat)) (be16 c1 c0))
          | _ => .rejected .frameLength
        else .rejected .byteCount
      | _ => .rejected .frameTooShort
    else .rejected (.notARequest f)
  | _ => .rejected .frameTooShort

/-- The response frame a byte sequence is: an exception response when bit 7 of byte 1 is set (R75), else a normal
response with an even byte count and at least `3 + bc + 2` bytes (R74). -/
def decodeResponse : List Byte → Decoded
  | u :: f :: x :: bs =>
    if 65535 < bs.length + 3 then .rejected .frameTooLong
    else if isExceptionCode f then
      match splitCrc bs with
      | some p => .instr (.frameExceptionRsp u f x p.1 p.2)
      | none => .rejected .frameTooShort
    else if x.getLsbD 0 then .rejected .byteCount
    else if bs.length < x.toNat + 2 then .rejected .frameTooShort
    else
      match splitCrc (bs.drop x.toNat) with
      | some p => .instr (.frameNormalRsp u f (beRegs (bs.take x.toNat)) p.1 p.2)
      | none => .rejected .frameTooShort
  | _ => .rejected .frameTooShort

/-- The decoder, total on every code. -/
def decode : Code → Decoded
  | .cmd w => decodeCommand w
  | .req bs => decodeRequest bs
  | .rsp bs => decodeResponse bs

/-! ### The encoder -/

/-- The word of R80 with the given fields and `RSV = 0`. -/
def commandWord (opc a : Byte) (b : BitVec 4) (sc : BitVec 2) : CmdWord :=
  opc.setWidth 32 ||| (a.setWidth 32 <<< 8) ||| (b.setWidth 32 <<< 16) ||| (sc.setWidth 32 <<< 20)

/-- The first six bytes of the fixed-length requests (R71, R72). -/
def requestHeader (unit fc : Byte) (addr v : Reg16) : List Byte :=
  [unit, fc, hi8 addr, lo8 addr, hi8 v, lo8 v]

/-- The bytes of a write-multiple request before its checksum: the 7-byte header and the values (R73). -/
def writeMultipleBody (unit : Byte) (addr : Reg16) (values : List Reg16) : List Byte :=
  requestHeader unit 0x10#8 addr (BitVec.ofNat 16 values.length)
    ++ BitVec.ofNat 8 (2 * values.length) :: beBytes values

/-- The code of an instruction (R81 for a command, R71 to R75 for a frame). -/
def encode : Instr → Code
  | .crcInit => .cmd (commandWord 0x01#8 0 0 0)
  | .crcByte b => .cmd (commandWord 0x02#8 b 0 0)
  | .crcBuf => .cmd (commandWord 0x03#8 0 0 0)
  | .encRd => .cmd (commandWord 0x10#8 0 0 0)
  | .encWs => .cmd (commandWord 0x11#8 0 0 0)
  | .encWm => .cmd (commandWord 0x12#8 0 0 0)
  | .decReq => .cmd (commandWord 0x20#8 0 0 0)
  | .decRsp => .cmd (commandWord 0x21#8 0 0 0)
  | .extU16 idx sc => .cmd (commandWord 0x30#8 idx 0 sc)
  | .extS16 idx sc => .cmd (commandWord 0x31#8 idx 0 sc)
  | .extU32H idx sc => .cmd (commandWord 0x32#8 idx 0 sc)
  | .extU32L idx sc => .cmd (commandWord 0x33#8 idx 0 sc)
  | .extHib idx => .cmd (commandWord 0x34#8 idx 0 0)
  | .extLob idx => .cmd (commandWord 0x35#8 idx 0 0)
  | .extBit idx k => .cmd (commandWord 0x36#8 idx k 0)
  | .rdeDecode fc => .cmd (commandWord 0x38#8 fc 0 0)
  | .sreset => .cmd (commandWord 0x7F#8 0 0 0)
  | .frameReadReq u a q c => .req (requestHeader u 0x03#8 a q ++ crcBytes c)
  | .frameWriteSingleReq u a v c => .req (requestHeader u 0x06#8 a v ++ crcBytes c)
  | .frameWriteMultipleReq u a vs c => .req (writeMultipleBody u a vs ++ crcBytes c)
  | .frameNormalRsp u f rs extra c =>
      .rsp ([u, f, BitVec.ofNat 8 (2 * rs.length)] ++ beBytes rs ++ extra ++ crcBytes c)
  | .frameExceptionRsp u f x extra c => .rsp ([u, f, x] ++ extra ++ crcBytes c)

/-- The bytes of a code on the wire; a command word is no byte sequence. -/
def Code.bytes : Code → List Byte
  | .cmd _ => []
  | .req bs => bs
  | .rsp bs => bs

/-! ### The host's reading of a table word -/

/-- The `n` bytes of a number, least significant first. -/
def leBytes : Nat → Nat → List Byte
  | 0, _ => []
  | n + 1, w => BitVec.ofNat 8 w :: leBytes n (w / 256)

/-- Bytes filled up with zeros to a length: what a table word does not give of an instruction is zero. -/
def padTo (n : Nat) (bs : List Byte) : List Byte := bs ++ List.replicate (n - bs.length) 0

/-- The length that the byte count of a write-multiple request states (R73); the other requests have one length. -/
def requestLength : List Byte → Nat
  | _ :: f :: _ :: _ :: _ :: _ :: b :: _ => if f = 0x10#8 then 9 + b.toNat else 0
  | _ => 0

/-- The shortest length of a response with this header (R74, R75). -/
def responseLength : List Byte → Nat
  | _ :: f :: b :: _ => if isExceptionCode f then 5 else 5 + b.toNat
  | _ => 0

/-- The code of a frame given by its first bytes. A sequence that is both a request and a response (R77) is taken as
the request (log 5). -/
def frameCode (bs : List Byte) : Code :=
  match decodeRequest (padTo (requestLength bs) bs) with
  | .instr _ => .req (padTo (requestLength bs) bs)
  | .rejected _ => .rsp (padTo (responseLength bs) bs)

/-- The code of an instruction given as a number whose bit 0 is the least significant bit of its first word: with 32
bits a command word (R80), else a frame whose first byte is the low one. -/
def tableCode (nbits w : Nat) : Code :=
  if nbits = 32 then .cmd (BitVec.ofNat 32 w) else frameCode (leBytes (nbits / 8) w)

/-- The instruction the decoder reads from a table word. -/
def decodeTableWord (nbits w : Nat) : Option Instr :=
  match decode (tableCode nbits w) with
  | .instr i => some i
  | .rejected _ => none

end Sys2Proof
end

