-- ==== Sys2Proof/Machine/State.lean ====
section
/-! DEFINITION. Everything the spec gives the machine, as plain data (spec/10_state.md), in the groups of that file's
overview table; the host's action stream and the step's result beside it (spec/44_system.md R170); the stops; and
the state after reset (R40, R200). -/

namespace Sys2Proof.Machine

/-- The thirteen outcomes of a command (R180). `STATUS.ERR` holds one of them and nothing else. -/
inductive ErrCode where
  | ok
  | malformedRequest
  | malformedResponse
  | inconsistentByteCount
  | modbusException
  | crcMismatch
  | illegalCommand
  | bufferRange
  | encodeRange
  | decodeBlocked
  | reservedScale
  | bitRange
  | indexRange
  deriving DecidableEq, Repr

/-- The tag of a typed value (R29). Code 3 is reserved and never produced, so it has no constructor
(93_implementation_defined.md row 13). -/
inductive Tag where
  | int | dec1 | bool
  deriving DecidableEq, Repr

/-- A typed value `(t, m)` (R29). -/
structure TypedValue where
  t : Tag
  m : Mantissa
  deriving DecidableEq, Repr

/-- An entry of `FO` (R31): `{fid, t, m}`. -/
structure FieldEntry where
  fid : Reg16
  t : Tag
  m : Mantissa
  deriving DecidableEq, Repr

/-- The operand registers `OP_UNIT`, `OP_ADDR`, `OP_QTY` (R21). -/
structure Operands where
  unit : Byte
  addr : Reg16
  qty : Reg16
  deriving DecidableEq, Repr

/-- `IB` and `IBLEN` (R23). Every buffer space is a list of (cell, value) pairs, cells strictly rising, no value
equal to the reset value, which is what an unlisted cell reads as (R40, R200). -/
structure InputBuffer where
  cells : List Host.Cell
  len : Reg16
  deriving DecidableEq, Repr

/-- `VB` and `VLEN` (R24). -/
structure ValueBuffer where
  cells : List (Nat × Reg16)
  len : Byte
  deriving DecidableEq, Repr

/-- `OB` and `OBLEN` (R26). -/
structure OutputBuffer where
  cells : List Host.Cell
  len : Reg16
  deriving DecidableEq, Repr

/-- `Q_UNIT`, `Q_FC`, `Q_ADDR`, `Q_QTY` (R27). -/
structure RequestResult where
  unit : Byte
  fc : Byte
  addr : Reg16
  qty : Reg16
  deriving DecidableEq, Repr

/-- `P_UNIT`, `P_FC`, `P_EXC`, `P_BC`, `RA`, `RALEN` (R28). -/
structure ResponseResult where
  unit : Byte
  fc : Byte
  exc : Byte
  bc : Byte
  ra : List (Nat × Reg16)
  ralen : Byte
  deriving DecidableEq, Repr

/-- `DB_ID`, `DB_FC`, `DB_ADDR`, `FO`, `FOLEN` (R31). -/
structure DecodeResult where
  id : Reg16
  fc : Byte
  addr : Reg16
  fo : List (Nat × FieldEntry)
  folen : Byte
  deriving DecidableEq, Repr

/-- `STATUS` (R34): the fields `ERR`, `ISEXC`, `CRCOK`, `RAV`. Bits 31:11 read as zero and hold nothing (log 12). -/
structure Status where
  err : ErrCode
  isexc : Bool
  crcok : Bool
  rav : Bool
  deriving DecidableEq, Repr

/-- A register or cell a host action names (R41). The platform's `BUS_MAP` is open, so state is addressed by name
(R58, log 15). -/
inductive Target where
  | opUnit | opAddr | opQty
  | ib (i : Nat) | iblen
  | vb (i : Nat) | vlen
  | ctrl | cmd | crcacc
  | ob (i : Nat) | oblen
  | qUnit | qFc | qAddr | qQty
  | pUnit | pFc | pExc | pBc
  | ra (i : Nat) | ralen
  | xrT | xrM
  | dbId | dbFc | dbAddr
  | fo (i : Nat) | folen
  | status
  deriving DecidableEq, Repr

/-- What a host read returns (R172): the register's or cell's bits as a number, or a whole `FO` entry (R56). -/
inductive HostValue where
  | num (n : Nat)
  | entry (e : FieldEntry)
  deriving DecidableEq, Repr

/-- What the outside can do to the block, one at a time and only between commands (R170). -/
inductive HostAction where
  /-- `HostWrite(target, v)` (R171). -/
  | write (t : Target) (v : Nat)
  /-- `HostRead(target)` (R172). -/
  | read (t : Target)
  /-- `Issue(w)` (R173). -/
  | issue (w : CmdWord)
  /-- A request's bytes placed in `IB` and counted in `IBLEN` (R12, R85 LDIB; log 4, log 5). -/
  | request (bytes : List Byte)
  /-- A response's bytes placed in `IB` and counted in `IBLEN` (R12, R85 LDIB; log 4, log 5). -/
  | response (bytes : List Byte)
  /-- The platform's hardware reset input (R200; log 14). -/
  | hardReset
  deriving DecidableEq, Repr

/-- The block's machine state: everything 10_state.md gives the block, and no configuration (R38). It is the `State`
of R170's `step : Config -> State -> HostAction -> State × Option Value`, which is `blockStep` of HostPort.lean. -/
structure BlockState where
  /-- `OP_UNIT`, `OP_ADDR`, `OP_QTY` (R21). -/
  op : Operands
  /-- `IB`, `IBLEN` (R23). -/
  ib : InputBuffer
  /-- `VB`, `VLEN` (R24). -/
  vb : ValueBuffer
  /-- `CTRL.STRICT`, the one storage bit of `CTRL` (R36, log 12). -/
  strict : Bool
  /-- `CRCACC` (R25). -/
  crcacc : Reg16
  /-- `OB`, `OBLEN` (R26). -/
  ob : OutputBuffer
  /-- `Q_UNIT`, `Q_FC`, `Q_ADDR`, `Q_QTY` (R27). -/
  q : RequestResult
  /-- `P_UNIT`, `P_FC`, `P_EXC`, `P_BC`, `RA`, `RALEN` (R28). -/
  p : ResponseResult
  /-- `XR_T`, `XR_M` (R30). -/
  xr : TypedValue
  /-- `DB_ID`, `DB_FC`, `DB_ADDR`, `FO`, `FOLEN` (R31). -/
  db : DecodeResult
  /-- `STATUS` (R34). -/
  status : Status
  deriving DecidableEq, Repr

/-- What the host's interface runs: the block's state and, beside it, the other arguments and the result of R170's
step function, since the interface's `step` takes one argument (log 2). -/
structure State extends BlockState where
  /-- R170's `Config` argument: BUF_CAP, FO_CAP, RT_CAP, RULES (R6, R38). It is no part of the block's state, and no
  step can write it: the block's step function does not answer one (log 2). -/
  cfg : Config
  /-- The model's own: the host's actions still to come, first one first (R170, log 1). -/
  pending : List HostAction
  /-- The model's own: what the last host action returned (R170, R172, log 10). -/
  delivered : Option HostValue
  deriving DecidableEq, Repr

/-- Where the machine stops with a fault. The block itself never stops (R187): its errors are outcomes in `STATUS`. -/
inductive Fault where
  /-- Raised by the step of a configuration that fails R6's ranges or R89's `rules_wf`: such a block never leaves
  reset (R202; 93_implementation_defined.md row 18, "stuck"). Also raised by `RDE.DECODE` where a selected rule of such
  a table reads what no rule may read, for which the spec gives no effect (R149, R89). Safe (log 9). -/
  | configNotWellFormed
  deriving DecidableEq, Repr

/-- Where the machine refuses: an instruction without a meaning, or a host action the spec does not admit. -/
inductive Refusal where
  /-- Raised by `exec`'s arm of an instruction that has no meaning yet. Safe. No arm of this model raises it. -/
  | notModelled (mnemonic : String)
  /-- Raised by a host write to a target that is not host-writable or to a cell at or beyond the capacity
  ("a model refuses it", R171, R41), a frame longer than `IB` among them. Safe. -/
  | writeNotAdmitted (t : Target)
  /-- Raised by a host write of a value wider than its target (R171). Safe. -/
  | valueTooWide (t : Target)
  /-- Raised by a host read of `CMD`, of a cell at or beyond the capacity, or of a result cell at or beyond its
  length ("a model refuses it", R172, R32). Safe. -/
  | readNotAdmitted (t : Target)
  deriving DecidableEq, Repr

/-- The block after reset (R40, R200): zero everywhere except `CRCACC = 0xFFFF`. -/
def BlockState.reset : BlockState :=
  { op := { unit := 0, addr := 0, qty := 0 }
    ib := { cells := [], len := 0 }
    vb := { cells := [], len := 0 }
    strict := false
    crcacc := 0xFFFF#16
    ob := { cells := [], len := 0 }
    q := { unit := 0, fc := 0, addr := 0, qty := 0 }
    p := { unit := 0, fc := 0, exc := 0, bc := 0, ra := [], ralen := 0 }
    xr := { t := .int, m := 0 }
    db := { id := 0, fc := 0, addr := 0, fo := [], folen := 0 }
    status := { err := .ok, isexc := false, crcok := false, rav := false } }

/-- The block after reset under a given configuration, nothing pending and nothing delivered (log 1, log 10). -/
def State.resetWith (c : Config) : State :=
  { toBlockState := BlockState.reset, cfg := c, pending := [], delivered := none }

/-- The machine right after reset, with the spec's default capacities and the empty table (R40, R200; log 3). -/
def State.reset : State := State.resetWith Config.default

end Sys2Proof.Machine
end

