-- ==== Sys2Proof/Machine/Ops.lean ====
section
/-! DEFINITION. The named operations over the buffer spaces and registers: reading and writing cells in the canonical
form, the checksum function (spec/40_checksum.md R100, R101), ending a command (spec/60_exceptions.md R180 to R187)
and the failure clauses of R183. -/

namespace Sys2Proof.Machine

/-- What a command or host action answers. -/
abbrev Result := Host.Outcome State Fault Refusal

/-! ### Buffer spaces (R50): sorted cells, unlisted cells reading as the reset value `zero` (R40, R200) -/

/-- Cell `i` of a space. -/
def Memory.read {α : Type} (zero : α) : List (Nat × α) → Nat → α
  | [], _ => zero
  | (j, v) :: m, i => if j = i then v else Memory.read zero m i

/-- The space without an entry for cell `i`, which then reads as the reset value. -/
def Memory.erase {α : Type} (m : List (Nat × α)) (i : Nat) : List (Nat × α) := m.filter fun c => decide (c.1 ≠ i)

/-- An entry put at its place among rising cells. -/
def Memory.insert {α : Type} : List (Nat × α) → Nat → α → List (Nat × α)
  | [], i, v => [(i, v)]
  | (j, w) :: m, i, v => if i < j then (i, v) :: (j, w) :: m else (j, w) :: Memory.insert m i v

/-- The space with cell `i` holding `v`: writing the reset value removes the entry, so the canonical form stays. -/
def Memory.write {α : Type} [DecidableEq α] (zero : α) (m : List (Nat × α)) (i : Nat) (v : α) : List (Nat × α) :=
  if v = zero then Memory.erase m i else Memory.insert (Memory.erase m i) i v

/-- `MemWrite(S, i, n, v)` (R9): the cells from `i` on take the values of a sequence. -/
def Memory.writeSeq {α : Type} [DecidableEq α] (zero : α) : List (Nat × α) → Nat → List α → List (Nat × α)
  | m, _, [] => m
  | m, i, v :: vs => Memory.writeSeq zero (Memory.write zero m i v) (i + 1) vs

/-- `MemRead(S, i, n)` (R9): the sequence of the cells `i` to `i + n - 1`. -/
def Memory.readSeq {α : Type} (zero : α) (m : List (Nat × α)) (i : Nat) : Nat → List α
  | 0 => []
  | n + 1 => Memory.read zero m i :: Memory.readSeq zero m (i + 1) n

/-- Cells strictly rising from `lo` on, none holding the reset value. -/
def Memory.wfFrom {α : Type} [DecidableEq α] (zero : α) : Nat → List (Nat × α) → Bool
  | _, [] => true
  | lo, (j, v) :: m => decide (lo ≤ j) && decide (v ≠ zero) && Memory.wfFrom zero (j + 1) m

/-- The canonical form of a space, which makes equal contents equal data. -/
def Memory.wf {α : Type} [DecidableEq α] (zero : α) (m : List (Nat × α)) : Bool := Memory.wfFrom zero 0 m

/-- Every listed cell lies below the space's capacity (R50). -/
def Memory.below {α : Type} (cap : Nat) (m : List (Nat × α)) : Bool := m.all fun c => decide (c.1 < cap)

/-- The reset value of an `FO` entry (R200, log 7). -/
def zeroEntry : FieldEntry := { fid := 0, t := .int, m := 0 }

/-- The number of cells of `OB` (R6). -/
def obCap : Nat := 263

/-- The number of cells of `VB` (R6). -/
def vbCap : Nat := 127

/-- The number of cells of `RA` (R6). -/
def raCap : Nat := 127

/-! ### The checksum function -/

/-- One of the eight iterations of R100: the low bit is tested before the shift. -/
def crcShift (a : Reg16) : Reg16 := if a.getLsbD 0 then (a >>> 1) ^^^ 0xA001#16 else a >>> 1

/-- `n` iterations of R100. -/
def crcShifts : Nat → Reg16 → Reg16
  | 0, a => a
  | n + 1, a => crcShifts n (crcShift a)

/-- `crc_step(a, b)` (R100). -/
def crcStep (a : Reg16) (b : Byte) : Reg16 := crcShifts 8 (a ^^^ b.setWidth 16)

/-- The accumulator after a sequence of bytes, first byte first (R101, R105). -/
def crcFeed (a : Reg16) (s : List Byte) : Reg16 := s.foldl crcStep a

/-- `crc16(s)` (R101). -/
def crc16 (s : List Byte) : Reg16 := crcFeed 0xFFFF#16 s

/-! ### Ending a command: the outcome (R180, R186, R187) -/

/-- The write of `STATUS.ERR`; the other fields of `STATUS` stay. -/
def setErr (e : ErrCode) (s : State) : State := { s with status := { s.status with err := e } }

/-- A command that succeeds: `STATUS.ERR <- 0` (R173, R180). -/
def finish (s : State) : Result := .next (setErr .ok s)

/-- `raise E` (R9, R183, R186), the block's whole "trap entry": `STATUS.ERR <- code(E)` on the state the command's
failure clause has left, and nothing else; there is no control transfer and nothing to return from (R187). -/
def raise (e : ErrCode) (s : State) : Result := .next (setErr e s)

/-! ### The failure clauses (R183): each result the command would have written takes its reset value -/

/-- `CRC.BUF`: `CRCACC <- 0xFFFF`. -/
def clearCrc (s : State) : State := { s with crcacc := 0xFFFF#16 }

/-- `ENC.WM`: `OBLEN <- 0`. -/
def clearOb (s : State) : State := { s with ob := { s.ob with len := 0 } }

/-- `DEC.REQ`: `Q_* <- 0`, `STATUS.CRCOK <- 0`. -/
def clearReq (s : State) : State :=
  { s with
    q := { unit := 0, fc := 0, addr := 0, qty := 0 }
    status := { s.status with crcok := false } }

/-- `DEC.RSP`: `P_* <- 0`, `RALEN <- 0`, `STATUS.ISEXC, CRCOK, RAV <- 0`. -/
def clearRsp (s : State) : State :=
  { s with
    p := { s.p with unit := 0, fc := 0, exc := 0, bc := 0, ralen := 0 }
    status := { s.status with isexc := false, crcok := false, rav := false } }

/-- `EXT.*`: `XR_T, XR_M <- 0`. -/
def clearXr (s : State) : State := { s with xr := { t := .int, m := 0 } }

/-- `RDE.DECODE`: `DB_ID, DB_FC, DB_ADDR <- 0`, `FOLEN <- 0`. -/
def clearDb (s : State) : State := { s with db := { s.db with id := 0, fc := 0, addr := 0, folen := 0 } }

/-! ### Storing results -/

/-- The encoders' result: `MemWrite(OB, 0, len(frame), frame); OBLEN <- len(frame)` (R111 to R113). -/
def storeFrame (frame : List Byte) (s : State) : State :=
  { s with ob := { cells := Memory.writeSeq 0 s.ob.cells 0 frame, len := BitVec.ofNat 16 frame.length } }

/-- A byte sequence placed in `IB` from cell 0 on and counted in `IBLEN`: the writes of `LDIB` (R12, R85). -/
def loadInput (bytes : List Byte) (s : State) : State :=
  { s with ib := { cells := Memory.writeSeq 0 s.ib.cells 0 bytes, len := BitVec.ofNat 16 bytes.length } }

/-- Reset, by the platform's input or by `SRESET`: every piece of the block's state takes its reset value; the
configuration stays (R174, R200), and so do the host's own actions and what it has been given, which are no state of
the block (log 17). -/
def resetBlock (s : State) : State := { s with toBlockState := BlockState.reset }

end Sys2Proof.Machine
end

