-- ==== Sys2Proof/Machine/Operands.lean ====
section
/-! DEFINITION. Where a command's operands come from: the registers and buffers of spec/10_state.md, the frame in
`IB` (spec/30_encoding.md R76), and the extraction function over the register array (spec/43_register_engine.md
R140, R149). -/

namespace Sys2Proof.Machine

/-- `IB[i]` (R23). -/
def ibByte (s : State) (i : Nat) : Byte := Memory.read 0 s.ib.cells i

/-- `IB[0..n)`. -/
def ibSeq (s : State) (n : Nat) : List Byte := Memory.readSeq 0 s.ib.cells 0 n

/-- The 16-bit frame field at bytes `k`, `k + 1` of `IB`, big-endian (R51, R76). -/
def ibField (s : State) (k : Nat) : Reg16 := be16 (ibByte s k) (ibByte s (k + 1))

/-- `VB[i]` (R24). -/
def vbCell (s : State) (i : Nat) : Reg16 := Memory.read 0 s.vb.cells i

/-- `VB[0..n)`. -/
def vbSeq (s : State) (n : Nat) : List Reg16 := Memory.readSeq 0 s.vb.cells 0 n

/-- `OB[i]` (R26); the host may read it for `i < OBLEN` only (R32). -/
def obByte (s : State) (i : Nat) : Byte := Memory.read 0 s.ob.cells i

/-- `OB[0..n)`. -/
def obSeq (s : State) (n : Nat) : List Byte := Memory.readSeq 0 s.ob.cells 0 n

/-- `RA[i]` (R28); operations read it for `i < RALEN` only (R141, R149). -/
def raReg (s : State) (i : Nat) : Reg16 := Memory.read 0 s.p.ra i

/-- `FO[i]` (R31); the host may read it for `i < FOLEN` only (R32). -/
def foEntry (s : State) (i : Nat) : FieldEntry := Memory.read zeroEntry s.db.fo i

/-- The registers of an accepted normal response: `RA[i] = be16(IB[3 + 2i], IB[4 + 2i])`, from register `i` on
(R125). -/
def ibRegs (s : State) (i : Nat) : Nat → List Reg16
  | 0 => []
  | n + 1 => ibField s (3 + 2 * i) :: ibRegs s (i + 1) n

/-! ### The extraction function -/

/-- How many registers a kind reads (R89, R149). -/
def span : Kind → Nat
  | .u32h => 2
  | .u32l => 2
  | .u16 => 1
  | .s16 => 1
  | .hib => 1
  | .lob => 1
  | .bit => 1

/-- `scale(r, sc)` (R140): the mantissa is the raw integer, only the tag tells tenths from units. -/
def scale (m : Mantissa) (sc : Nat) : TypedValue := if sc = 1 then { t := .dec1, m := m } else { t := .int, m := m }

/-- `(h << 16) | l` on unsigned registers (R149). -/
def word32 (h l : Reg16) : Mantissa := (h.setWidth 64 <<< 16) ||| l.setWidth 64

/-- `extract(kind, idx, k, sc)` (R149), for operands in its domain. -/
def extractValue (s : State) (kind : Kind) (idx k sc : Nat) : TypedValue :=
  match kind with
  | .u16 => scale ((raReg s idx).setWidth 64) sc
  | .s16 => scale ((raReg s idx).signExtend 64) sc
  | .u32h => scale (word32 (raReg s idx) (raReg s (idx + 1))) sc
  | .u32l => scale (word32 (raReg s (idx + 1)) (raReg s idx)) sc
  | .hib => { t := .int, m := (hi8 (raReg s idx)).setWidth 64 }
  | .lob => { t := .int, m := (lo8 (raReg s idx)).setWidth 64 }
  | .bit => { t := .bool, m := if (raReg s idx).getLsbD k then 1 else 0 }

/-- R149's domain: `idx + span(kind) <= RALEN`, `k <= 7`, `sc <= 1`. -/
def extractDefined (s : State) (kind : Kind) (idx k sc : Nat) : Bool :=
  decide (idx + span kind ≤ s.p.ralen.toNat) && decide (k ≤ 7) && decide (sc ≤ 1)

end Sys2Proof.Machine
end

