-- ==== Sys2Proof/Machine/Checksum.lean ====
section
/-! DEFINITION. The Checksum Unit's commands (spec/40_checksum.md R102 to R104). -/

namespace Sys2Proof.Machine

/-- `CRC.INIT` (R102). -/
def execCrcInit (s : State) : Result := finish { s with crcacc := 0xFFFF#16 }

/-- `CRC.BYTE b` (R103). -/
def execCrcByte (b : Byte) (s : State) : Result := finish { s with crcacc := crcStep s.crcacc b }

/-- `CRC.BUF` (R104). -/
def execCrcBuf (s : State) : Result :=
  if s.cfg.bufCap < s.ib.len.toNat then raise .bufferRange (clearCrc s)
  else finish { s with crcacc := crc16 (ibSeq s s.ib.len.toNat) }

end Sys2Proof.Machine
end

