-- ==== Sys2Proof/Machine/Flags.lean ====
section
/-! DEFINITION. The status and control registers as words, the outcome codes (spec/60_exceptions.md R180), the CRC
verdict (spec/42_frame_decoder.md R120) and its policy (R126), and what a typed value denotes (spec/10_state.md R29). -/

namespace Sys2Proof.Machine

/-- The number of an outcome (R180). -/
def errCode : ErrCode → Byte
  | .ok => 0x00#8
  | .malformedRequest => 0x01#8
  | .malformedResponse => 0x02#8
  | .inconsistentByteCount => 0x03#8
  | .modbusException => 0x04#8
  | .crcMismatch => 0x05#8
  | .illegalCommand => 0x10#8
  | .bufferRange => 0x11#8
  | .encodeRange => 0x12#8
  | .decodeBlocked => 0x13#8
  | .reservedScale => 0x14#8
  | .bitRange => 0x15#8
  | .indexRange => 0x16#8

/-- The 2-bit code of a tag (R29). -/
def tagCode : Tag → Nat
  | .int => 0
  | .dec1 => 1
  | .bool => 2

/-- A flag as a number. -/
def bit01 (b : Bool) : Nat := if b then 1 else 0

/-- `STATUS` as the host reads it (R34): `ERR` in 7:0, `ISEXC` 8, `CRCOK` 9, `RAV` 10, the rest zero. -/
def statusWord (st : Status) : CmdWord :=
  (errCode st.err).setWidth 32 ||| (BitVec.ofNat 32 (bit01 st.isexc) <<< 8)
    ||| (BitVec.ofNat 32 (bit01 st.crcok) <<< 9) ||| (BitVec.ofNat 32 (bit01 st.rav) <<< 10)

/-- `CTRL` as the host reads it (R36): `STRICT` in bit 0, the rest zero. -/
def ctrlWord (strict : Bool) : CmdWord := BitVec.ofNat 32 (bit01 strict)

/-- `crc_ok(n)` (R120): the checksum of all bytes but the last two equals the value those two carry, low byte first. -/
def crcOk (s : State) (n : Nat) : Bool :=
  decide (crc16 (ibSeq s (n - 2)) = be16 (ibByte s (n - 1)) (ibByte s (n - 2)))

/-- The strict policy refuses a frame whose checksum does not match (R126). -/
def crcRefused (s : State) (n : Nat) : Bool := s.strict && !crcOk s n

/-- The rational a typed value denotes (R29); a `BOOL` denotes its truth value, 0 or 1. -/
def denote (v : TypedValue) : ℚ :=
  match v.t with
  | .int => (v.m.toInt : ℚ)
  | .dec1 => (v.m.toInt : ℚ) / 10
  | .bool => (v.m.toInt : ℚ)

/-- `round_half_up_1(x) = floor(10 x + 1/2) / 10` (R140). -/
def roundHalfUp1 (x : ℚ) : ℚ := (⌊10 * x + 1 / 2⌋ : ℚ) / 10

end Sys2Proof.Machine
end

