-- ==== Sys2Proof/Machine/Decoder.lean ====
section
/-! DEFINITION. The frame decoder's commands and the exception response (spec/42_frame_decoder.md R120 to R128). -/

namespace Sys2Proof.Machine

/-- The parsed request (R121): the fields from the fixed byte positions and the CRC verdict. -/
def acceptRequest (s : State) : State :=
  { s with
    q := { unit := ibByte s 0, fc := ibByte s 1, addr := ibField s 2, qty := ibField s 4 }
    status := { s.status with crcok := crcOk s s.ib.len.toNat } }

/-- `DEC.REQ` (R121), the tests in R184's order. -/
def execDecReq (s : State) : Result :=
  if s.cfg.bufCap < s.ib.len.toNat then raise .bufferRange (clearReq s)
  else if s.ib.len.toNat < 8 then raise .malformedRequest (clearReq s)
  else if crcRefused s s.ib.len.toNat then raise .crcMismatch (clearReq s)
  else finish (acceptRequest s)

/-- The exception response's record (R123): the register array is emptied. -/
def acceptException (s : State) : State :=
  { s with
    p := { s.p with unit := ibByte s 0, fc := ibByte s 1, exc := ibByte s 2, bc := 0, ralen := 0 }
    status := { s.status with isexc := true, crcok := crcOk s s.ib.len.toNat, rav := false } }

/-- The normal response's record (R122, R125) for the byte count in byte 2. -/
def acceptResponse (s : State) : State :=
  { s with
    p :=
      { unit := ibByte s 0
        fc := ibByte s 1
        exc := 0
        bc := ibByte s 2
        ra := Memory.writeSeq 0 s.p.ra 0 (ibRegs s 0 ((ibByte s 2).toNat / 2))
        ralen := BitVec.ofNat 8 ((ibByte s 2).toNat / 2) }
    status := { s.status with isexc := false, crcok := crcOk s s.ib.len.toNat, rav := true } }

/-- `DEC.RSP` (R122), the tests in R184's order. -/
def execDecRsp (s : State) : Result :=
  if s.cfg.bufCap < s.ib.len.toNat then raise .bufferRange (clearRsp s)
  else if s.ib.len.toNat < 5 then raise .malformedResponse (clearRsp s)
  else if crcRefused s s.ib.len.toNat then raise .crcMismatch (clearRsp s)
  else if isExceptionCode (ibByte s 1) then raise .modbusException (acceptException s)
  else if s.ib.len.toNat < 3 + (ibByte s 2).toNat + 2 then raise .inconsistentByteCount (clearRsp s)
  else if (ibByte s 2).getLsbD 0 then raise .malformedResponse (clearRsp s)
  else finish (acceptResponse s)

end Sys2Proof.Machine
end

