-- ==== Sys2Proof/Machine/Encoder.lean ====
section
/-! DEFINITION. The frame encoder's commands (spec/41_frame_encoder.md R110 to R113). -/

namespace Sys2Proof.Machine

/-- A frame's bytes followed by their checksum, low byte first (R70, R110). -/
def withCrc (h : List Byte) : List Byte := h ++ crcBytes (crc16 h)

/-- `ENC.RD` (R111): `quantity = OP_QTY`. -/
def execEncRd (s : State) : Result :=
  finish (storeFrame (withCrc (requestHeader s.op.unit 0x03#8 s.op.addr s.op.qty)) s)

/-- `ENC.WS` (R112): `value = OP_QTY`. -/
def execEncWs (s : State) : Result :=
  finish (storeFrame (withCrc (requestHeader s.op.unit 0x06#8 s.op.addr s.op.qty)) s)

/-- `ENC.WM` (R113): `values = VB[0..VLEN)`; `OP_QTY` is not read. -/
def execEncWm (s : State) : Result :=
  if 127 < s.vb.len.toNat then raise .encodeRange (clearOb s)
  else finish (storeFrame (withCrc (writeMultipleBody s.op.unit s.op.addr (vbSeq s s.vb.len.toNat))) s)

end Sys2Proof.Machine
end

