-- ==== Sys2Proof/Machine/RuleTable.lean ====
section
/-! DEFINITION. The rule table: the named checks of `rules_wf` (spec/30_encoding.md R89), the ranges of the capacities
(spec/00_scope.md R6), and rule selection (spec/43_register_engine.md R150). -/

namespace Sys2Proof.Machine

/-- The kind a code names (R88); code 7 and above are reserved. -/
def kindOfCode : Nat → Option Kind
  | 0 => some .u16
  | 1 => some .s16
  | 2 => some .u32h
  | 3 => some .u32l
  | 4 => some .hib
  | 5 => some .lob
  | 6 => some .bit
  | _ => none

/-- `span` on kind codes (R89): 2 for `U32H` and `U32L`, 1 otherwise. -/
def spanOfCode (kind : Nat) : Nat := if kind = 2 ∨ kind = 3 then 2 else 1

/-- `wf_count` (R89). -/
def wfCount (c : Config) : Bool := decide (c.rules.length ≤ c.rtCap)

/-- `wf_key_unique` (R89): no two rules have the same `(addr, minCount)`. -/
def wfKeyUnique : List Rule → Bool
  | [] => true
  | r :: rs => rs.all (fun q => !(decide (r.addr = q.addr) && decide (r.minCount = q.minCount))) && wfKeyUnique rs

/-- `wf_mincount` (R89). -/
def wfMincount (r : Rule) : Bool := decide (1 ≤ r.minCount) && decide (r.minCount ≤ 127)

/-- `wf_blockid` (R89). -/
def wfBlockid (r : Rule) : Bool := decide (r.blockId ≠ 0)

/-- `wf_nfields` (R89). -/
def wfNfields (c : Config) (r : Rule) : Bool := decide (r.fields.length ≤ c.foCap)

/-- `wf_kind` (R89). -/
def wfKind (d : FieldDesc) : Bool := decide (d.kind ≤ 6)

/-- `wf_span` (R89). -/
def wfSpan (r : Rule) (d : FieldDesc) : Bool := decide (d.idx + spanOfCode d.kind ≤ r.minCount)

/-- `wf_bit` (R89): `k <= 7`, and `k = 0` unless the kind is `BIT`. -/
def wfBit (d : FieldDesc) : Bool := decide (d.k ≤ 7) && (decide (d.kind = 6) || decide (d.k = 0))

/-- `wf_scale` (R89): `sc <= 1`, and `sc = 0` for `HIB`, `LOB`, `BIT`. -/
def wfScale (d : FieldDesc) : Bool :=
  decide (d.sc ≤ 1) && (!(decide (d.kind = 4) || decide (d.kind = 5) || decide (d.kind = 6)) || decide (d.sc = 0))

/-- The checks of R89 on one rule. -/
def ruleWf (c : Config) (r : Rule) : Bool :=
  wfMincount r && wfBlockid r && wfNfields c r
    && r.fields.all fun d => wfKind d && wfSpan r d && wfBit d && wfScale d

/-- `rules_wf(RULES)` (R89). -/
def rulesWf (c : Config) : Bool := wfCount c && wfKeyUnique c.rules && c.rules.all (ruleWf c)

/-- A configuration under which the block leaves reset (R202): the capacities within R6's ranges and `rules_wf`. -/
def configWf (c : Config) : Bool :=
  decide (263 ≤ c.bufCap) && decide (c.bufCap ≤ 65535) && decide (1 ≤ c.foCap) && decide (c.foCap ≤ 255) && rulesWf c

/-- `select(addr, n)` (R150): the first rule, in table order, with this address and `minCount <= n`. -/
def selectRule (addr : Reg16) (n : Nat) : List Rule → Option Rule
  | [] => none
  | r :: rs => if r.addr = addr ∧ r.minCount ≤ n then some r else selectRule addr n rs

/-- The `FO` entry of one descriptor (R151): `extract` on its domain (R149), nothing outside it. -/
def extractField (s : State) (d : FieldDesc) : Option FieldEntry :=
  match kindOfCode d.kind with
  | none => none
  | some kind =>
    if extractDefined s kind d.idx d.k d.sc then
      some { fid := d.fid, t := (extractValue s kind d.idx d.k d.sc).t, m := (extractValue s kind d.idx d.k d.sc).m }
    else none

/-- The entries of a field list, in its order; nothing when one descriptor has none. -/
def extractFields (s : State) : List FieldDesc → Option (List FieldEntry)
  | [] => some []
  | d :: ds =>
    match extractField s d, extractFields s ds with
    | some e, some es => some (e :: es)
    | some _, none => none
    | none, some _ => none
    | none, none => none

end Sys2Proof.Machine
end

