-- ==== Sys2Proof/Machine/Engine.lean ====
section
/-! DEFINITION. The rule decode (spec/43_register_engine.md R150 to R155). -/

namespace Sys2Proof.Machine

/-- The `Unknown` variant (R152): the register array it carries stays in `RA`. -/
def storeUnknown (fc : Byte) (s : State) : State :=
  { s with db := { s.db with id := 0, fc := fc, addr := s.op.addr, folen := 0 } }

/-- The block a rule produces (R151). -/
def storeBlock (fc : Byte) (r : Rule) (es : List FieldEntry) (s : State) : State :=
  { s with
    db :=
      { id := r.blockId
        fc := fc
        addr := s.op.addr
        fo := Memory.writeSeq zeroEntry s.db.fo 0 es
        folen := BitVec.ofNat 8 es.length } }

/-- `RDE.DECODE fc` (R151). Under a well-formed table a selected rule's fields all have their value and fit in `FO`
(R89); for a table that fails `rules_wf` the block is not defined (R202), and a rule that reads or stores what no
rule may stops the machine (log 9). -/
def execRdeDecode (fc : Byte) (s : State) : Result :=
  if s.status.rav = false then raise .decodeBlocked (clearDb s)
  else
    match selectRule s.op.addr s.p.ralen.toNat s.cfg.rules with
    | none => finish (storeUnknown fc s)
    | some r =>
      match extractFields s r.fields with
      | none => .fault .configNotWellFormed
      | some es =>
        if wfNfields s.cfg r then finish (storeBlock fc r es s) else .fault .configNotWellFormed

end Sys2Proof.Machine
end

