-- ==== Sys2Proof/Machine/Extract.lean ====
section
/-! DEFINITION. The seven extraction commands (spec/43_register_engine.md R141 to R148). -/

namespace Sys2Proof.Machine

/-- The common course of R141: its four tests in order, then `extract`. A command that does not use `SC` or `B`
passes zero, for which the tests on them do not fail. -/
def extCommand (kind : Kind) (idx : Byte) (k : BitVec 4) (sc : BitVec 2) (s : State) : Result :=
  if s.status.rav = false then raise .decodeBlocked (clearXr s)
  else if 2 ≤ sc.toNat then raise .reservedScale (clearXr s)
  else if 7 < k.toNat then raise .bitRange (clearXr s)
  else if s.p.ralen.toNat < idx.toNat + span kind then raise .indexRange (clearXr s)
  else finish { s with xr := extractValue s kind idx.toNat k.toNat sc.toNat }

/-- `EXT.U16` (R142). -/
def execExtU16 (idx : Byte) (sc : BitVec 2) (s : State) : Result := extCommand .u16 idx 0 sc s

/-- `EXT.S16` (R143). -/
def execExtS16 (idx : Byte) (sc : BitVec 2) (s : State) : Result := extCommand .s16 idx 0 sc s

/-- `EXT.U32H` (R144): the register at the lower index is the high word. -/
def execExtU32H (idx : Byte) (sc : BitVec 2) (s : State) : Result := extCommand .u32h idx 0 sc s

/-- `EXT.U32L` (R145): the register at the lower index is the low word. -/
def execExtU32L (idx : Byte) (sc : BitVec 2) (s : State) : Result := extCommand .u32l idx 0 sc s

/-- `EXT.HIB` (R146). -/
def execExtHib (idx : Byte) (s : State) : Result := extCommand .hib idx 0 0 s

/-- `EXT.LOB` (R147). -/
def execExtLob (idx : Byte) (s : State) : Result := extCommand .lob idx 0 0 s

/-- `EXT.BIT` (R148). -/
def execExtBit (idx : Byte) (k : BitVec 4) (s : State) : Result := extCommand .bit idx k 0 s

end Sys2Proof.Machine
end

