-- ==== Sys2Proof/Machine/Frames.lean ====
section
/-! DEFINITION. The frames (spec/30_encoding.md R71 to R75). A frame is no command: its effect on the block is that
of arriving, which R12 and the pseudo-instruction LDIB of R85 describe as host writes of its bytes to `IB` and of
their number to `IBLEN` (DESIGN CHOICE, log 4). The encoders build these layouts in `OB`, the decoders read them
from `IB`. -/

namespace Sys2Proof.Machine

/-- A byte sequence arriving in `IB`: a sequence longer than `IB`, or than `IBLEN` can count, is not admitted (R171). -/
def presentFrame (bytes : List Byte) (s : State) : Result :=
  if s.cfg.bufCap < bytes.length then .refused (.writeNotAdmitted (.ib s.cfg.bufCap))
  else if 65535 < bytes.length then .refused (.valueTooWide .iblen)
  else .next (loadInput bytes s)

/-- `FRAME.READ_REQ` (R71). -/
def execFrameReadReq (u : Byte) (a q c : Reg16) (s : State) : Result :=
  presentFrame (encode (.frameReadReq u a q c)).bytes s

/-- `FRAME.WRITE_SINGLE_REQ` (R72). -/
def execFrameWriteSingleReq (u : Byte) (a v c : Reg16) (s : State) : Result :=
  presentFrame (encode (.frameWriteSingleReq u a v c)).bytes s

/-- `FRAME.WRITE_MULTIPLE_REQ` (R73). -/
def execFrameWriteMultipleReq (u : Byte) (a : Reg16) (vs : List Reg16) (c : Reg16) (s : State) : Result :=
  presentFrame (encode (.frameWriteMultipleReq u a vs c)).bytes s

/-- `FRAME.NORMAL_RSP` (R74). -/
def execFrameNormalRsp (u f : Byte) (rs : List Reg16) (extra : List Byte) (c : Reg16) (s : State) : Result :=
  presentFrame (encode (.frameNormalRsp u f rs extra c)).bytes s

/-- `FRAME.EXCEPTION_RSP` (R75). -/
def execFrameExceptionRsp (u f x : Byte) (extra : List Byte) (c : Reg16) (s : State) : Result :=
  presentFrame (encode (.frameExceptionRsp u f x extra c)).bytes s

end Sys2Proof.Machine
end

