-- ==== Sys2Proof/Machine/System.lean ====
section
/-! DEFINITION. The soft reset and the illegal command (spec/44_system.md R174, R175). -/

namespace Sys2Proof.Machine

/-- `SRESET` (R174): always succeeds; the reset value of `STATUS.ERR` is `OK`. -/
def execSreset (s : State) : Result := .next (resetBlock s)

/-- The illegal command (R175): `STATUS.ERR <- code(IllegalCommand)` and nothing else. -/
def illegalCommand (s : State) : Result := raise .illegalCommand s

end Sys2Proof.Machine
end

