-- ==== Sys2Proof/Machine/Dispatch.lean ====
section
/-! DEFINITION. The meaning of every instruction, one arm per constructor of `Instr`. -/

namespace Sys2Proof.Machine

def exec (i : Instr) (s : State) : Host.Outcome State Fault Refusal :=
  match i with
  | .crcInit => Sys2Proof.Machine.execCrcInit s
  | .crcByte b => Sys2Proof.Machine.execCrcByte b s
  | .crcBuf => Sys2Proof.Machine.execCrcBuf s
  | .encRd => Sys2Proof.Machine.execEncRd s
  | .encWs => Sys2Proof.Machine.execEncWs s
  | .encWm => Sys2Proof.Machine.execEncWm s
  | .decReq => Sys2Proof.Machine.execDecReq s
  | .decRsp => Sys2Proof.Machine.execDecRsp s
  | .extU16 idx sc => Sys2Proof.Machine.execExtU16 idx sc s
  | .extS16 idx sc => Sys2Proof.Machine.execExtS16 idx sc s
  | .extU32H idx sc => Sys2Proof.Machine.execExtU32H idx sc s
  | .extU32L idx sc => Sys2Proof.Machine.execExtU32L idx sc s
  | .extHib idx => Sys2Proof.Machine.execExtHib idx s
  | .extLob idx => Sys2Proof.Machine.execExtLob idx s
  | .extBit idx k => Sys2Proof.Machine.execExtBit idx k s
  | .rdeDecode fc => Sys2Proof.Machine.execRdeDecode fc s
  | .sreset => Sys2Proof.Machine.execSreset s
  | .frameReadReq u a q c => Sys2Proof.Machine.execFrameReadReq u a q c s
  | .frameWriteSingleReq u a v c => Sys2Proof.Machine.execFrameWriteSingleReq u a v c s
  | .frameWriteMultipleReq u a vs c => Sys2Proof.Machine.execFrameWriteMultipleReq u a vs c s
  | .frameNormalRsp u f rs extra c => Sys2Proof.Machine.execFrameNormalRsp u f rs extra c s
  | .frameExceptionRsp u f x extra c => Sys2Proof.Machine.execFrameExceptionRsp u f x extra c s

end Sys2Proof.Machine
end

