-- ==== Sys2Proof/Machine/HostPort.lean ====
section
/-! DEFINITION. The host's actions on the block (spec/44_system.md R170 to R173, spec/10_state.md R32, R36, R37, R41). -/

namespace Sys2Proof.Machine

/-- What the host does to bring a code to the block. -/
def actionOfCode : Code → HostAction
  | .cmd w => .issue w
  | .req bs => .request bs
  | .rsp bs => .response bs

/-- Running a code: the instruction it decodes to (R173). A word that matches no row is the illegal command (R175);
a byte sequence that is no frame of its side still arrives in `IB` (R12; log 4). -/
def runCode (c : Code) (s : State) : Result :=
  match decode c with
  | .instr i => exec i s
  | .rejected _ =>
    match c with
    | .cmd _ => illegalCommand s
    | .req bs => presentFrame bs s
    | .rsp bs => presentFrame bs s

/-- A host write of a value that must fit `width` bits (R171). -/
def admitWidth (t : Target) (width v : Nat) (r : Result) : Result :=
  if v < 2 ^ width then r else .refused (.valueTooWide t)

/-- `HostWrite(target, v)` (R171): `target <- v`, of `CTRL` bit 0 only (R36); a write to `CMD` is `Issue` (R37);
every other target is not host-writable (R41). -/
def hostWrite (t : Target) (v : Nat) (s : State) : Result :=
  match t with
  | .opUnit => admitWidth t 8 v (.next { s with op := { s.op with unit := BitVec.ofNat 8 v } })
  | .opAddr => admitWidth t 16 v (.next { s with op := { s.op with addr := BitVec.ofNat 16 v } })
  | .opQty => admitWidth t 16 v (.next { s with op := { s.op with qty := BitVec.ofNat 16 v } })
  | .ib i =>
    if i < s.cfg.bufCap then
      admitWidth t 8 v
        (.next { s with ib := { s.ib with cells := Memory.write 0 s.ib.cells i (BitVec.ofNat 8 v) } })
    else .refused (.writeNotAdmitted t)
  | .iblen => admitWidth t 16 v (.next { s with ib := { s.ib with len := BitVec.ofNat 16 v } })
  | .vb i =>
    if i < vbCap then
      admitWidth t 16 v
        (.next { s with vb := { s.vb with cells := Memory.write 0 s.vb.cells i (BitVec.ofNat 16 v) } })
    else .refused (.writeNotAdmitted t)
  | .vlen => admitWidth t 8 v (.next { s with vb := { s.vb with len := BitVec.ofNat 8 v } })
  | .ctrl => admitWidth t 32 v (.next { s with strict := v.testBit 0 })
  | .cmd => admitWidth t 32 v (runCode (.cmd (BitVec.ofNat 32 v)) s)
  | .crcacc => .refused (.writeNotAdmitted t)
  | .ob _ => .refused (.writeNotAdmitted t)
  | .oblen => .refused (.writeNotAdmitted t)
  | .qUnit => .refused (.writeNotAdmitted t)
  | .qFc => .refused (.writeNotAdmitted t)
  | .qAddr => .refused (.writeNotAdmitted t)
  | .qQty => .refused (.writeNotAdmitted t)
  | .pUnit => .refused (.writeNotAdmitted t)
  | .pFc => .refused (.writeNotAdmitted t)
  | .pExc => .refused (.writeNotAdmitted t)
  | .pBc => .refused (.writeNotAdmitted t)
  | .ra _ => .refused (.writeNotAdmitted t)
  | .ralen => .refused (.writeNotAdmitted t)
  | .xrT => .refused (.writeNotAdmitted t)
  | .xrM => .refused (.writeNotAdmitted t)
  | .dbId => .refused (.writeNotAdmitted t)
  | .dbFc => .refused (.writeNotAdmitted t)
  | .dbAddr => .refused (.writeNotAdmitted t)
  | .fo _ => .refused (.writeNotAdmitted t)
  | .folen => .refused (.writeNotAdmitted t)
  | .status => .refused (.writeNotAdmitted t)

/-- A cell the host may read when its index lies below a bound. -/
def cellBelow (bound i : Nat) (v : HostValue) : Option HostValue := if i < bound then some v else none

/-- What the host reads at a target (R172, R41); nothing where the read is not admitted (R32, R37). -/
def readTarget (s : State) : Target → Option HostValue
  | .opUnit => some (.num s.op.unit.toNat)
  | .opAddr => some (.num s.op.addr.toNat)
  | .opQty => some (.num s.op.qty.toNat)
  | .ib i => cellBelow s.cfg.bufCap i (.num (ibByte s i).toNat)
  | .iblen => some (.num s.ib.len.toNat)
  | .vb i => cellBelow vbCap i (.num (vbCell s i).toNat)
  | .vlen => some (.num s.vb.len.toNat)
  | .ctrl => some (.num (ctrlWord s.strict).toNat)
  | .cmd => none
  | .crcacc => some (.num s.crcacc.toNat)
  | .ob i => cellBelow s.ob.len.toNat i (.num (obByte s i).toNat)
  | .oblen => some (.num s.ob.len.toNat)
  | .qUnit => some (.num s.q.unit.toNat)
  | .qFc => some (.num s.q.fc.toNat)
  | .qAddr => some (.num s.q.addr.toNat)
  | .qQty => some (.num s.q.qty.toNat)
  | .pUnit => some (.num s.p.unit.toNat)
  | .pFc => some (.num s.p.fc.toNat)
  | .pExc => some (.num s.p.exc.toNat)
  | .pBc => some (.num s.p.bc.toNat)
  | .ra i => cellBelow s.p.ralen.toNat i (.num (raReg s i).toNat)
  | .ralen => some (.num s.p.ralen.toNat)
  | .xrT => some (.num (tagCode s.xr.t))
  | .xrM => some (.num s.xr.m.toNat)
  | .dbId => some (.num s.db.id.toNat)
  | .dbFc => some (.num s.db.fc.toNat)
  | .dbAddr => some (.num s.db.addr.toNat)
  | .fo i => cellBelow s.db.folen.toNat i (.entry (foEntry s i))
  | .folen => some (.num s.db.folen.toNat)
  | .status => some (.num (statusWord s.status).toNat)

/-- `HostRead(target)` (R172): returns the value and changes nothing of the block (R57). -/
def hostRead (t : Target) (s : State) : Result :=
  match readTarget s t with
  | some v => .next { s with delivered := some v }
  | none => .refused (.readNotAdmitted t)

/-- One host action, whole (R170). -/
def perform (a : HostAction) (s : State) : Result :=
  match a with
  | .write t v => hostWrite t v s
  | .read t => hostRead t s
  | .issue w => runCode (.cmd w) s
  | .request bs => runCode (.req bs) s
  | .response bs => runCode (.rsp bs) s
  | .hardReset => .next (resetBlock s)

/-- The state in which an action runs: it has left the host's stream, and nothing is delivered yet. -/
def takeAction (s : State) (rest : List HostAction) : State := { s with pending := rest, delivered := none }

/-- R170's `step : Config -> State -> HostAction -> State × Option Value`: the configuration is an argument with its
decided check (R38, R89), the block's state holds none of it, and the answer has none. Under a configuration that
fails the check the block accepts no host action (R202, log 9). -/
def blockStep (c : Config) (b : BlockState) (a : HostAction) :
    Host.Outcome (BlockState × Option HostValue) Fault Refusal :=
  if configWf c then
    match perform a { toBlockState := b, cfg := c, pending := [], delivered := none } with
    | .next t => .next (t.toBlockState, t.delivered)
    | .fault f => .fault f
    | .refused r => .refused r
  else .fault .configNotWellFormed

/-- One step of the interface: the block's step on the host's next action (R170), or nothing when the host has none
(log 8), which a configuration that fails its check does not allow either (R202). -/
def stepOnce (s : State) : Result :=
  match s.pending with
  | [] => if configWf s.cfg then .next s else .fault .configNotWellFormed
  | a :: rest =>
    match blockStep s.cfg s.toBlockState a with
    | .next (b, v) => .next { toBlockState := b, cfg := s.cfg, pending := rest, delivered := v }
    | .fault f => .fault f
    | .refused r => .refused r

/-- The host about to bring one more code before all it has pending. -/
def pushCode (c : Code) (s : State) : State := { s with pending := actionOfCode c :: s.pending }

end Sys2Proof.Machine
end

