-- ==== Sys2Proof/Machine/Step.lean ====
section
/-! DEFINITION. The step, and how one instruction is put where the step takes its next (spec/44_system.md R170,
R173). The block fetches nothing (spec/10_state.md R22): its next instruction is the host's next action (log 1). -/

namespace Sys2Proof.Machine

/-- One step of the machine. -/
def step (s : State) : Host.Outcome State Fault Refusal := stepOnce s

/-- `s` with one instruction, given as a table word, as the host's next action. -/
def State.withFetchWord (s : State) (nbits w : Nat) : State := pushCode (tableCode nbits w) s

end Sys2Proof.Machine
end

