-- ==== Sys2Proof/Machine/Assembler.lean ====
section
/-! DEFINITION. The host's side of the block: the hex-string boundary (spec/00_scope.md R10, R12), and the assembler
syntax and pseudo-instructions of spec/30_encoding.md R85. Text is a list of characters, so that the kernel can
evaluate it. What the spec does not write (other spellings of a numeral, lower-case digits) answers none (log 18). -/

namespace Sys2Proof.Machine

/-! ### Hex strings -/

/-- The value of a hexadecimal digit as the spec writes it, upper case (R10). -/
def hexDigit (c : Char) : Option Nat :=
  if '0' ≤ c ∧ c ≤ '9' then some (c.toNat - 48)
  else if 'A' ≤ c ∧ c ≤ 'F' then some (c.toNat - 55)
  else none

/-- A frame's hex string as bytes, high digit first (R12); none for an odd length or another character, of which the
source says nothing (N7). -/
def hexBytes : List Char → Option (List Byte)
  | [] => some []
  | [_] => none
  | c :: d :: cs =>
    match hexDigit c, hexDigit d, hexBytes cs with
    | some h, some l, some bs => some (BitVec.ofNat 8 (16 * h + l) :: bs)
    | _, _, _ => none

/-- A digit's character, upper case (R10). -/
def digitChar (n : Nat) : Char := if n < 10 then Char.ofNat (48 + n) else Char.ofNat (55 + n)

/-- Bytes as a hex string, two upper-case digits each, high digit first (R12). -/
def bytesHex : List Byte → List Char
  | [] => []
  | b :: bs => digitChar (b.toNat / 16) :: digitChar (b.toNat % 16) :: bytesHex bs

/-! ### Pseudo-instructions (R85): they expand to host writes and reads, never to commands (`SET` of `CMD`: log 19) -/

/-- The pseudo-instructions, operands already read. R85 gives `SET` for a host-writable register only; here it names any
target (DESIGN CHOICE, log 19). -/
inductive Pseudo where
  | set (t : Target) (v : Nat)
  | ldib (bytes : List Byte)
  | ldvb (values : List Reg16)
  | ob2ib
  | get (t : Target)
  deriving DecidableEq, Repr

/-- The writes of a byte sequence to `IB` from cell `i` on. -/
def writeBytes : Nat → List Byte → List HostAction
  | _, [] => []
  | i, b :: bs => .write (.ib i) b.toNat :: writeBytes (i + 1) bs

/-- The writes of a value sequence to `VB` from cell `i` on. -/
def writeValues : Nat → List Reg16 → List HostAction
  | _, [] => []
  | i, v :: vs => .write (.vb i) v.toNat :: writeValues (i + 1) vs

/-- `OB2IB`'s copies of the `n` cells from `i` on: each cell of `OB` is read and written to the same cell of `IB`. -/
def copyCells (s : State) (i : Nat) : Nat → List HostAction
  | 0 => []
  | n + 1 => .read (.ob i) :: .write (.ib i) (obByte s i).toNat :: copyCells s (i + 1) n

/-- The host actions a pseudo-instruction stands for; `s` is the state whose `OB` and `OBLEN` the host reads. `SET` of a
target that is no host-writable register is a point R85 leaves open: it expands to the host write all the same, which
stores in a cell of `IB` or `VB`, is refused for a read-only target (R41, R171), and for `CMD`, no register (R37),
issues the word (DESIGN CHOICE, log 19). -/
def expand (s : State) : Pseudo → List HostAction
  | .set t v => [.write t v]
  | .ldib bytes => writeBytes 0 bytes ++ [.write .iblen bytes.length]
  | .ldvb values => writeValues 0 values ++ [.write .vlen values.length]
  | .ob2ib => copyCells s 0 s.ob.len.toNat ++ [.read .oblen, .write .iblen s.ob.len.toNat]
  | .get t => [.read t]

/-! ### Assembler lines (R85) -/

/-- An operand: a numeral, or a scale written `x1` or `x0.1`. -/
inductive AsmOperand where
  | num (n : Nat)
  | scale (sc : BitVec 2)
  deriving DecidableEq, Repr

/-- A field that an operand fills. -/
inductive AsmField where
  | a | b | sc
  deriving DecidableEq, Repr

/-- An assembler row: mnemonic, opcode, and the fields its operands fill in order `A`, `B`, `SC`. -/
structure AsmRow where
  mnemonic : String
  opc : Byte
  fields : List AsmField

/-- The mnemonics of R81 with the fields each uses. -/
def asmRows : List AsmRow :=
  [ ⟨"CRC.INIT", 0x01#8, []⟩, ⟨"CRC.BYTE", 0x02#8, [.a]⟩, ⟨"CRC.BUF", 0x03#8, []⟩,
    ⟨"ENC.RD", 0x10#8, []⟩, ⟨"ENC.WS", 0x11#8, []⟩, ⟨"ENC.WM", 0x12#8, []⟩,
    ⟨"DEC.REQ", 0x20#8, []⟩, ⟨"DEC.RSP", 0x21#8, []⟩,
    ⟨"EXT.U16", 0x30#8, [.a, .sc]⟩, ⟨"EXT.S16", 0x31#8, [.a, .sc]⟩,
    ⟨"EXT.U32H", 0x32#8, [.a, .sc]⟩, ⟨"EXT.U32L", 0x33#8, [.a, .sc]⟩,
    ⟨"EXT.HIB", 0x34#8, [.a]⟩, ⟨"EXT.LOB", 0x35#8, [.a]⟩, ⟨"EXT.BIT", 0x36#8, [.a, .b]⟩,
    ⟨"RDE.DECODE", 0x38#8, [.a]⟩, ⟨"SRESET", 0x7F#8, []⟩ ]

/-- The fields `A`, `B`, `SC` that operands give; an omitted last scale is `x1`, as the spec's vectors write it. -/
def asmOperands : List AsmField → List AsmOperand → Option (Byte × BitVec 4 × BitVec 2)
  | [], [] => some (0, 0, 0)
  | [.sc], [] => some (0, 0, 0)
  | .a :: fs, .num n :: os =>
    if n < 256 then (asmOperands fs os).map fun p => (BitVec.ofNat 8 n, p.2.1, p.2.2) else none
  | .b :: fs, .num n :: os =>
    if n < 16 then (asmOperands fs os).map fun p => (p.1, BitVec.ofNat 4 n, p.2.2) else none
  | .sc :: fs, .num n :: os =>
    if n < 4 then (asmOperands fs os).map fun p => (p.1, p.2.1, BitVec.ofNat 2 n) else none
  | .sc :: fs, .scale sc :: os => (asmOperands fs os).map fun p => (p.1, p.2.1, sc)
  | _, _ => none

/-- The word of a mnemonic with its operands. -/
def assemble (mnemonic : List Char) (ops : List AsmOperand) : Option CmdWord :=
  match asmRows.find? (fun r => decide (r.mnemonic.toList = mnemonic)) with
  | some r => (asmOperands r.fields ops).map fun p => commandWord r.opc p.1 p.2.1 p.2.2
  | none => none

/-- Digits in a base, most significant first, after a value already read. -/
def digitsFrom (base acc : Nat) : List Char → Option Nat
  | [] => some acc
  | c :: cs =>
    match hexDigit c with
    | some d => if d < base then digitsFrom base (base * acc + d) cs else none
    | none => none

/-- One operand of a line. -/
def asmOperand (cs : List Char) : Option AsmOperand :=
  if cs = ['x', '1'] then some (.scale 0)
  else if cs = ['x', '0', '.', '1'] then some (.scale 1)
  else
    match cs with
    | [] => none
    | '0' :: 'x' :: d :: ds => (digitsFrom 16 0 (d :: ds)).map .num
    | d :: ds => (digitsFrom 10 0 (d :: ds)).map .num

/-- Characters split at each comma, spaces dropped. -/
def splitOperands : List Char → List (List Char)
  | [] => [[]]
  | c :: cs =>
    match splitOperands cs with
    | [] => [[]]
    | t :: ts => if c = ',' then [] :: t :: ts else if c = ' ' then t :: ts else (c :: t) :: ts

/-- Every operand of a line, or none when one cannot be read. -/
def readOperands : List (List Char) → Option (List AsmOperand)
  | [] => some []
  | t :: ts =>
    match asmOperand t, readOperands ts with
    | some o, some os => some (o :: os)
    | _, _ => none

/-- The command word of an assembler line: `MNEMONIC [operand, ...]`. -/
def asmLine (line : List Char) : Option CmdWord :=
  match line.dropWhile (· ≠ ' ') with
  | [] => assemble line []
  | rest => (readOperands (splitOperands rest)).bind (assemble (line.takeWhile (· ≠ ' ')))

end Sys2Proof.Machine
end

