-- ==== Sys2Proof/Safety.lean ====
section
/-! DEFINITION. What the statements speak of: which parts of the state two states share (the frames), the invariant
that every step keeps, the outcomes each command may end with (spec/60_exceptions.md R180), and runs of several
instructions. -/

namespace Sys2Proof.Machine

/-! ### Frames: the groups of spec/10_state.md's overview, each cell by the model's own read of one cell -/

/-- The configuration, the host's stream and what the host was given. -/
def SameHost (s t : State) : Prop := t.cfg = s.cfg ∧ t.pending = s.pending ∧ t.delivered = s.delivered

/-- Everything the host writes: operand registers, `IB`, `IBLEN`, `VB`, `VLEN`, `CTRL` (R41). -/
def SameInputs (s t : State) : Prop :=
  t.op = s.op ∧ t.ib.len = s.ib.len ∧ (∀ i, ibByte t i = ibByte s i) ∧ t.vb.len = s.vb.len
    ∧ (∀ i, vbCell t i = vbCell s i) ∧ t.strict = s.strict

/-- `CRCACC` (R25). -/
def SameChecksum (s t : State) : Prop := t.crcacc = s.crcacc

/-- `OB`, `OBLEN` (R26). -/
def SameOutput (s t : State) : Prop := t.ob.len = s.ob.len ∧ ∀ i, obByte t i = obByte s i

/-- `Q_*` (R27). -/
def SameRequest (s t : State) : Prop := t.q = s.q

/-- `P_*`, `RA`, `RALEN` (R28). -/
def SameResponse (s t : State) : Prop :=
  t.p.unit = s.p.unit ∧ t.p.fc = s.p.fc ∧ t.p.exc = s.p.exc ∧ t.p.bc = s.p.bc ∧ t.p.ralen = s.p.ralen
    ∧ ∀ i, raReg t i = raReg s i

/-- `XR_T`, `XR_M` (R30). -/
def SameExtraction (s t : State) : Prop := t.xr = s.xr

/-- `DB_*`, `FO`, `FOLEN` (R31). -/
def SameBlock (s t : State) : Prop :=
  t.db.id = s.db.id ∧ t.db.fc = s.db.fc ∧ t.db.addr = s.db.addr ∧ t.db.folen = s.db.folen
    ∧ ∀ i, foEntry t i = foEntry s i

/-- The fields of `STATUS` other than `ERR` (R34). -/
def SameFlags (s t : State) : Prop :=
  t.status.isexc = s.status.isexc ∧ t.status.crcok = s.status.crcok ∧ t.status.rav = s.status.rav

/-- All but the checksum result and `ERR`. -/
def OnlyChecksum (s t : State) : Prop :=
  SameHost s t ∧ SameInputs s t ∧ SameOutput s t ∧ SameRequest s t ∧ SameResponse s t ∧ SameExtraction s t
    ∧ SameBlock s t ∧ SameFlags s t

/-- All but the encoder result and `ERR`. -/
def OnlyOutput (s t : State) : Prop :=
  SameHost s t ∧ SameInputs s t ∧ SameChecksum s t ∧ SameRequest s t ∧ SameResponse s t ∧ SameExtraction s t
    ∧ SameBlock s t ∧ SameFlags s t

/-- All but the request-parse result, `CRCOK` and `ERR`. -/
def OnlyRequest (s t : State) : Prop :=
  SameHost s t ∧ SameInputs s t ∧ SameChecksum s t ∧ SameOutput s t ∧ SameResponse s t ∧ SameExtraction s t
    ∧ SameBlock s t ∧ t.status.isexc = s.status.isexc ∧ t.status.rav = s.status.rav

/-- All but the response-parse result and `STATUS`. -/
def OnlyResponse (s t : State) : Prop :=
  SameHost s t ∧ SameInputs s t ∧ SameChecksum s t ∧ SameOutput s t ∧ SameRequest s t ∧ SameExtraction s t
    ∧ SameBlock s t

/-- All but the extraction result and `ERR`. -/
def OnlyExtraction (s t : State) : Prop :=
  SameHost s t ∧ SameInputs s t ∧ SameChecksum s t ∧ SameOutput s t ∧ SameRequest s t ∧ SameResponse s t
    ∧ SameBlock s t ∧ SameFlags s t

/-- All but the decode result and `ERR`. -/
def OnlyBlock (s t : State) : Prop :=
  SameHost s t ∧ SameInputs s t ∧ SameChecksum s t ∧ SameOutput s t ∧ SameRequest s t ∧ SameResponse s t
    ∧ SameExtraction s t ∧ SameFlags s t

/-- All results of commands: everything but what the host writes. -/
def SameResults (s t : State) : Prop :=
  SameHost s t ∧ SameChecksum s t ∧ SameOutput s t ∧ SameRequest s t ∧ SameResponse s t ∧ SameExtraction s t
    ∧ SameBlock s t ∧ t.status = s.status

/-! ### The invariant -/

/-- A typed value the block may produce: its mantissa in R29's range, and 0 or 1 when it is a `BOOL`. -/
def TypedLegal (t : Tag) (m : Mantissa) : Prop :=
  -32768 ≤ m.toInt ∧ m.toInt ≤ 4294967295 ∧ (t = .bool → m = 0 ∨ m = 1)

/-- What holds after reset and after every step. -/
structure Invariant (s : State) : Prop where
  /-- The configuration is one under which the block leaves reset (R202). -/
  config : configWf s.cfg = true
  /-- The five spaces are in canonical form. -/
  ibForm : Memory.wf 0 s.ib.cells = true
  vbForm : Memory.wf 0 s.vb.cells = true
  obForm : Memory.wf 0 s.ob.cells = true
  raForm : Memory.wf 0 s.p.ra = true
  foForm : Memory.wf zeroEntry s.db.fo = true
  /-- No space holds a cell beyond its capacity (R50). -/
  ibBound : Memory.below s.cfg.bufCap s.ib.cells = true
  vbBound : Memory.below vbCap s.vb.cells = true
  obBound : Memory.below obCap s.ob.cells = true
  raBound : Memory.below raCap s.p.ra = true
  foBound : Memory.below s.cfg.foCap s.db.fo = true
  /-- No result length exceeds its buffer (R26, R28, R31). -/
  obLength : s.ob.len.toNat ≤ obCap
  raLength : s.p.ralen.toNat ≤ raCap
  foLength : s.db.folen.toNat ≤ s.cfg.foCap
  /-- `RAV = 0` implies `RALEN = 0` (R35 (c)). -/
  emptied : s.status.rav = false → s.p.ralen = 0
  /-- `RAV = 1` implies `ISEXC = 0` (R35 (b)). -/
  exclusive : s.status.rav = true → s.status.isexc = false
  /-- After a normal response `RALEN = P_BC / 2` exactly (R28), bit 7 of `P_FC` is clear and `P_EXC` is zero. -/
  normal : s.status.rav = true →
    2 * s.p.ralen.toNat = s.p.bc.toNat ∧ isExceptionCode s.p.fc = false ∧ s.p.exc = 0
  /-- After an exception response bit 7 of `P_FC` is set and `P_BC` is zero (R123). -/
  exception : s.status.isexc = true → isExceptionCode s.p.fc = true ∧ s.p.bc = 0
  /-- The typed values are in R29's range. -/
  extracted : TypedLegal s.xr.t s.xr.m
  fields : ∀ i, TypedLegal (foEntry s i).t (foEntry s i).m
  /-- The `Unknown` variant has no fields (R152). -/
  unknown : s.db.id = 0 → s.db.folen = 0

/-! ### What a command leaves -/

/-- R120's comparison, written on single bytes: the checksum of all bytes but the last two is the value the last two
carry, low byte first. -/
def trailingCrcMatches (s : State) (n : Nat) : Bool :=
  decide (crc16 ((List.range (n - 2)).map (ibByte s)) = be16 (ibByte s (n - 1)) (ibByte s (n - 2)))

/-- Failure of `DEC.REQ` (R121): its results at zero, `CRCOK = 0`, the code, and nothing else. -/
def RequestFailed (s t : State) (e : ErrCode) : Prop :=
  t.q = { unit := 0, fc := 0, addr := 0, qty := 0 } ∧ t.status.crcok = false ∧ t.status.err = e ∧ OnlyRequest s t

/-- Failure of `DEC.RSP` (R122): its results at zero, its three flags clear, the code, and nothing else. -/
def ResponseFailed (s t : State) (e : ErrCode) : Prop :=
  t.p.unit = 0 ∧ t.p.fc = 0 ∧ t.p.exc = 0 ∧ t.p.bc = 0 ∧ t.p.ralen = 0 ∧ (∀ i, raReg t i = raReg s i)
    ∧ t.status = { err := e, isexc := false, crcok := false, rav := false } ∧ OnlyResponse s t

/-- Failure of an extraction command (R141): `XR_T`, `XR_M` at zero, the code, and nothing else. -/
def ExtractionFailed (s t : State) (e : ErrCode) : Prop :=
  t.xr = { t := .int, m := 0 } ∧ t.status.err = e ∧ OnlyExtraction s t

/-- Success of an extraction command (R141) with a tag and an integer value. -/
def Extracted (s t : State) (tag : Tag) (v : Int) : Prop :=
  t.xr.t = tag ∧ t.xr.m.toInt = v ∧ t.status.err = .ok ∧ OnlyExtraction s t

/-- What lets a scaled extraction of `n` registers from `idx` on succeed (R141). -/
def Extractable (s : State) (idx n sc : Nat) : Prop :=
  s.status.rav = true ∧ sc ≤ 1 ∧ idx + n ≤ s.p.ralen.toNat

/-- The tag that a legal scale select gives (R84, R140). -/
def scaleTag (sc : Nat) : Tag := if sc = 0 then .int else .dec1

/-- The length, and in strict policy the CRC verdict, that let a response be parsed (R122, R126). -/
def ResponseReadable (s : State) : Prop :=
  s.ib.len.toNat ≤ s.cfg.bufCap ∧ 5 ≤ s.ib.len.toNat ∧
    (s.strict = true → trailingCrcMatches s s.ib.len.toNat = true)

/-- What makes a readable frame an accepted normal response (R122): bit 7 of byte 1 clear, enough bytes, an even
count. -/
def NormalResponse (s : State) : Prop :=
  (ibByte s 1).getLsbD 7 = false ∧ 3 + (ibByte s 2).toNat + 2 ≤ s.ib.len.toNat ∧ (ibByte s 2).toNat % 2 = 0

/-- The 7 bytes before the values of a write-multiple request, and the values (R73, R113). -/
def writeMultipleBytes (s : State) (n : Nat) : List Byte :=
  [s.op.unit, 0x10#8, hi8 s.op.addr, lo8 s.op.addr, hi8 (BitVec.ofNat 16 n), lo8 (BitVec.ofNat 16 n),
    BitVec.ofNat 8 (2 * n)] ++ (List.range n).flatMap fun i => [hi8 (vbCell s i), lo8 (vbCell s i)]

/-! ### Outcomes and runs -/

/-- The outcomes R180 lists for each command. -/
def outcomes : Instr → List ErrCode
  | .crcInit => [.ok]
  | .crcByte _ => [.ok]
  | .crcBuf => [.ok, .bufferRange]
  | .encRd => [.ok]
  | .encWs => [.ok]
  | .encWm => [.ok, .encodeRange]
  | .decReq => [.ok, .bufferRange, .malformedRequest, .crcMismatch]
  | .decRsp => [.ok, .bufferRange, .malformedResponse, .crcMismatch, .modbusException, .inconsistentByteCount]
  | .extU16 .. => [.ok, .decodeBlocked, .reservedScale, .indexRange]
  | .extS16 .. => [.ok, .decodeBlocked, .reservedScale, .indexRange]
  | .extU32H .. => [.ok, .decodeBlocked, .reservedScale, .indexRange]
  | .extU32L .. => [.ok, .decodeBlocked, .reservedScale, .indexRange]
  | .extHib _ => [.ok, .decodeBlocked, .indexRange]
  | .extLob _ => [.ok, .decodeBlocked, .indexRange]
  | .extBit .. => [.ok, .decodeBlocked, .bitRange, .indexRange]
  | .rdeDecode _ => [.ok, .decodeBlocked]
  | .sreset => [.ok]
  | .frameReadReq .. => []
  | .frameWriteSingleReq .. => []
  | .frameWriteMultipleReq .. => []
  | .frameNormalRsp .. => []
  | .frameExceptionRsp .. => []

/-- The kind, index, bit position and scale select of an extraction command (R141); a field it does not use is 0. -/
def extOperands : Instr → Option (Kind × Nat × Nat × Nat)
  | .extU16 idx sc => some (.u16, idx.toNat, 0, sc.toNat)
  | .extS16 idx sc => some (.s16, idx.toNat, 0, sc.toNat)
  | .extU32H idx sc => some (.u32h, idx.toNat, 0, sc.toNat)
  | .extU32L idx sc => some (.u32l, idx.toNat, 0, sc.toNat)
  | .extHib idx => some (.hib, idx.toNat, 0, 0)
  | .extLob idx => some (.lob, idx.toNat, 0, 0)
  | .extBit idx k => some (.bit, idx.toNat, k.toNat, 0)
  | .crcInit => none
  | .crcByte _ => none
  | .crcBuf => none
  | .encRd => none
  | .encWs => none
  | .encWm => none
  | .decReq => none
  | .decRsp => none
  | .rdeDecode _ => none
  | .sreset => none
  | .frameReadReq .. => none
  | .frameWriteSingleReq .. => none
  | .frameWriteMultipleReq .. => none
  | .frameNormalRsp .. => none
  | .frameExceptionRsp .. => none

/-- The commands of the Register Decode Engine, which `RAV` gates (R141, R151). -/
def isEngine (i : Instr) : Prop := (extOperands i).isSome = true ∨ ∃ fc, i = .rdeDecode fc

/-- The instructions of a list, one after another, while each answers a next state. -/
def execAll : List Instr → State → Result
  | [], s => .next s
  | i :: is, s =>
    match exec i s with
    | .next t => execAll is t
    | .fault f => .fault f
    | .refused r => .refused r

/-- The bytes that the `CRC.BYTE` commands of a list feed, in order (R103). -/
def fedBytes : List Instr → List Byte
  | [] => []
  | .crcByte b :: is => b :: fedBytes is
  | _ :: is => fedBytes is

/-- The word an action issues: by `Issue`, or by a write of a 32-bit value to `CMD` (R37, R173). -/
def issuedWord : HostAction → Option CmdWord
  | .issue w => some w
  | .write t v => if t = .cmd ∧ v < 2 ^ 32 then some (BitVec.ofNat 32 v) else none
  | .read _ => none
  | .request _ => none
  | .response _ => none
  | .hardReset => none

/-- The command an action issues; none where it issues no word, or an illegal one (R82). -/
def issuedInstr (a : HostAction) : Option Instr :=
  match issuedWord a with
  | none => none
  | some w =>
    match decodeCommand w with
    | .instr i => some i
    | .rejected _ => none

/-- The byte that an action feeds the checksum stream, if it issues a `CRC.BYTE` (R103). -/
def fedByAction (a : HostAction) : List Byte := fedBytes (issuedInstr a).toList

/-- The actions after which `CRCACC` does not continue the stream before them (R25). -/
def RestartsStream (a : HostAction) : Prop :=
  a = .hardReset ∨ issuedInstr a = some .crcInit ∨ issuedInstr a = some .crcBuf ∨ issuedInstr a = some .sreset

/-- The width of a target the host may write (R171, R41); `CMD` is the command port, not a register (R37). -/
def writeWidth (c : Config) : Target → Option Nat
  | .opUnit => some 8
  | .opAddr => some 16
  | .opQty => some 16
  | .ib i => if i < c.bufCap then some 8 else none
  | .iblen => some 16
  | .vb i => if i < 127 then some 16 else none
  | .vlen => some 8
  | .ctrl => some 32
  | _ => none

/-- The host's actions, one step each, until they are done or one stops. -/
def runSteps : Nat → State → Result
  | 0, s => .next s
  | n + 1, s =>
    match step s with
    | .next t => runSteps n t
    | .fault f => .fault f
    | .refused r => .refused r

/-- A host that has just these actions to perform, and nothing delivered yet. -/
def withActions (acts : List HostAction) (s : State) : State := { s with pending := acts, delivered := none }

/-- All of the actions, run from a state in which nothing else is pending. -/
def runHost (s : State) (acts : List HostAction) : Result := runSteps acts.length (withActions acts s)

end Sys2Proof.Machine
end

