-- ==== Sys2Proof/Certificates/Slice0/Obligations.lean ====
section
/-! DEFINITION. The statements for the provers. Each docstring says the rule or section of spec/ that the statement
formalises, or that it is the model's own choice with its log entry. -/

open Sys2Proof Sys2Proof.Machine

/-- Decoding the code of a well-formed instruction gives it back. Rests on 30_encoding.md Part A, 30_encoding.md Part
B. -/
def Obligations.DecodeOfEncodeIsTheInstruction : Prop :=
  ∀ i : Instr, i.wf = true → decode (encode i) = .instr i

/-- Every code that decodes is the code of the instruction it decodes to. Rests on 30_encoding.md Part A,
30_encoding.md Part B. -/
def Obligations.EncodeOfDecodeIsTheCode : Prop :=
  ∀ (c : Code) (i : Instr), decode c = .instr i → i.wf = true ∧ encode i = c

/-- A word is illegal exactly when its OPC is in no row, RSV is not zero, or an unused field is not zero. Rests on
30_encoding.md Part B (illegal commands), 44_system.md (illegal command). -/
def Obligations.IllegalWordsAreThoseOfTheirThreeCauses : Prop :=
  (∀ w : CmdWord, (∃ r, decodeCommand w = .rejected r) ↔
      (∀ row ∈ opcodeMap, fieldOpc row.pattern ≠ fieldOpc w) ∨ fieldRsv w ≠ 0 ∨
      ∃ row ∈ opcodeMap, fieldOpc row.pattern = fieldOpc w ∧
        ((fieldA row.mask ≠ 0 ∧ fieldA w ≠ 0) ∨ (fieldB row.mask ≠ 0 ∧ fieldB w ≠ 0) ∨
          (fieldSc row.mask ≠ 0 ∧ fieldSc w ≠ 0))) ∧
    (∀ (w : CmdWord) (r : Reject) (s : State), decodeCommand w = .rejected r →
      runCode (.cmd w) s = .next { s with status := { s.status with err := .illegalCommand } }) ∧
    ∀ w : CmdWord, fieldOpc w = 0 → ∃ r, decodeCommand w = .rejected r

/-- No word matches two rows of the opcode map. Rests on 44_system.md (Issue), 30_encoding.md Part B. -/
def Obligations.NoTwoOpcodeRowsMatchOneWord : Prop :=
  opcodeMap.Pairwise fun a b => ∀ w, ¬(a.holds w = true ∧ b.holds w = true)

/-- Words and frames the spec writes out decode to what it says. Rests on 30_encoding.md Part B (assembler examples),
95_test_vectors.md section 2. -/
def Obligations.DecodedWordsOfTheSpec : Prop :=
  decodeCommand 0x00003C02#32 = .instr (.crcByte 0x3C#8) ∧
    decodeCommand 0x00100431#32 = .instr (.extS16 4 1) ∧
    decodeCommand 0x00030036#32 = .instr (.extBit 0 3) ∧
    decodeCommand 0x00000338#32 = .instr (.rdeDecode 3) ∧
    decodeCommand 0x0000007F#32 = .instr .sreset ∧
    decodeRequest [0x01, 0x03, 0x00, 0x3C, 0x00, 0x05, 0x45, 0xC5] = .instr (.frameReadReq 1 60 5 0xC545#16) ∧
    decodeRequest [0x01, 0x10, 0x00, 0x00, 0x00, 0x01, 0x02, 0x00, 0x02, 0x27, 0x91] =
      .instr (.frameWriteMultipleReq 1 0 [2] 0x9127#16) ∧
    decodeResponse [0x01, 0x03, 0x02, 0x04, 0x03, 0xFA, 0x85] = .instr (.frameNormalRsp 1 3 [0x0403#16] [] 0x85FA#16) ∧
    decodeResponse [0x01, 0x83, 0x02, 0xC0, 0xF1] = .instr (.frameExceptionRsp 1 0x83#8 2 [] 0xF1C0#16)

/-- When the next code decodes to i, step is exec of i once the host action is taken. Rests on 44_system.md (Agents,
Issue, SRESET), 10_state.md (CMD), 70_reset_and_hazards.md section 1. The host stream, the idle step and the
arrival of bytes, well-formed or not, are the choices of logs 1, 8 and 4; that the hardware reset is one more
action of the stream is log 14, and that taking an action clears what was delivered is log 10. -/
def Obligations.StepRunsTheDecodedInstruction : Prop :=
  ∀ s : State, configWf s.cfg = true →
      (∀ c i rest, s.pending = actionOfCode c :: rest → decode c = .instr i → step s = exec i (takeAction s rest)) ∧
      (∀ v i rest, s.pending = .write .cmd v :: rest → v < 2 ^ 32 → decodeCommand (BitVec.ofNat 32 v) = .instr i →
        step s = exec i (takeAction s rest)) ∧
      (∀ tg v rest, s.pending = .write tg v :: rest → step s = hostWrite tg v (takeAction s rest)) ∧
      (∀ tg rest, s.pending = .read tg :: rest → step s = hostRead tg (takeAction s rest)) ∧
      (∀ rest, s.pending = .hardReset :: rest → step s = exec .sreset (takeAction s rest)) ∧
      (s.pending = [] → step s = .next s) ∧
      ∀ bs r rest, (s.pending = .request bs :: rest ∧ decodeRequest bs = .rejected r) ∨
          (s.pending = .response bs :: rest ∧ decodeResponse bs = .rejected r) →
        (bs.length ≤ s.cfg.bufCap → ∃ t, step s = .next t ∧ t.ib.len.toNat = bs.length ∧
          (List.range bs.length).map (ibByte t) = bs ∧ (∀ j, bs.length ≤ j → ibByte t j = ibByte s j) ∧
          t = { takeAction s rest with ib := t.ib }) ∧
        (s.cfg.bufCap < bs.length → step s = .refused (.writeNotAdmitted (.ib s.cfg.bufCap)))

/-- Issuing a word that matches no row sets STATUS.ERR to IllegalCommand and changes nothing else. Rests on
44_system.md (Illegal command, Issue), 60_exceptions.md section 1. The host stream and the action taken off it are
log 1, the cleared delivered value log 10, and a frame as the next code log 4. -/
def Obligations.IllegalCommandWritesOnlyTheError : Prop :=
  errCode .illegalCommand = 0x10#8 ∧
    ∀ (s : State) (w : CmdWord) (rest : List HostAction), configWf s.cfg = true → s.pending = .issue w :: rest →
      (∀ row ∈ opcodeMap, w &&& row.mask ≠ row.pattern) →
      ∃ t, step s = .next t ∧
        t = { takeAction s rest with status := { s.status with err := .illegalCommand } } ∧
        ∀ (c : Code) (i : Instr) (rest' : List HostAction), rest = actionOfCode c :: rest' → decode c = .instr i →
          step t = exec i (takeAction t rest')

/-- crc_step is the XOR of the byte and eight shift steps, in integer arithmetic. Formalises R100. -/
def Obligations.CrcStepIsEightShiftsByItsArithmetic : Prop :=
  (∀ a : Reg16, (crcShift a).toNat = if a.toNat % 2 = 1 then (a.toNat / 2) ^^^ 0xA001 else a.toNat / 2) ∧
    (∀ (a : Reg16) (b : Byte), crcStep a b = crcShift^[8] (a ^^^ b.setWidth 16))

/-- crc16 of the empty sequence, composition, CRC.BUF as a function of the buffered bytes, and streaming. Rests on
40_checksum.md section 2 (CRC.BYTE, law), 40_checksum.md section 3. The laws over commands, the composition and
the streaming law are inferences the spec marks [derived]. -/
def Obligations.ChecksumLaws : Prop :=
  crc16 [] = 0xFFFF#16 ∧
    (∀ u v : List Byte, crc16 (u ++ v) = v.foldl crcStep (crc16 u)) ∧
    (∀ s₁ s₂ t₁ t₂ : State, s₁.ib.len = s₂.ib.len → (∀ i, i < s₁.ib.len.toNat → ibByte s₁ i = ibByte s₂ i) →
      s₁.ib.len.toNat ≤ s₁.cfg.bufCap → s₂.ib.len.toNat ≤ s₂.cfg.bufCap →
      exec .crcBuf s₁ = .next t₁ → exec .crcBuf s₂ = .next t₂ → t₁.crcacc = t₂.crcacc) ∧
    (∀ s : State, s.ib.len = 0 → ∃ t, exec .crcBuf s = .next t ∧ t.crcacc = 0xFFFF#16) ∧
    ∀ (bytes : List Byte) (s : State), ∃ t, execAll (.crcInit :: bytes.map .crcByte) s = .next t ∧
      t.crcacc = crc16 bytes

/-- A sequence followed by its own checksum, low byte first, has checksum zero. Rests on 40_checksum.md section 3
(residue). The residue is an inference the spec marks [derived: from rules R100 and R101]. -/
def Obligations.ChecksumResidueIsZero : Prop :=
  (∀ a : Reg16, crcStep a (lo8 a) = a >>> 8) ∧
    (∀ s : List Byte, crc16 (s ++ [lo8 (crc16 s), hi8 (crc16 s)]) = 0 ∧
      crc16 (s ++ [lo8 (crc16 s), hi8 (crc16 s)]) = be16 0 0) ∧
    ∀ s : State, 2 ≤ s.ib.len.toNat → s.ib.len.toNat ≤ s.cfg.bufCap → trailingCrcMatches s s.ib.len.toNat = true →
      ∃ t, exec .crcBuf s = .next t ∧ t.crcacc = 0

/-- CRC.INIT sets CRCACC to 0xFFFF and changes nothing else but STATUS.ERR. Formalises R102. -/
def Obligations.CrcInitStartsAStream : Prop :=
  decodeCommand 0x00000001#32 = .instr .crcInit ∧
    ∀ s : State, ∃ t, exec .crcInit s = .next t ∧ t.crcacc = 0xFFFF#16 ∧ t.crcacc = crc16 [] ∧
      t.status.err = .ok ∧ OnlyChecksum s t ∧ exec .crcInit t = .next t

/-- CRC.BYTE b steps CRCACC by b and changes nothing else but STATUS.ERR. Formalises R103. -/
def Obligations.CrcByteFeedsTheStream : Prop :=
  (∀ b : Byte, decodeCommand (0x00000002#32 ||| (b.setWidth 32 <<< 8)) = .instr (.crcByte b)) ∧
    ∀ (b : Byte) (s : State), ∃ t, exec (.crcByte b) s = .next t ∧ t.crcacc = crcStep s.crcacc b ∧
      t.status.err = .ok ∧ OnlyChecksum s t

/-- CRC.BUF leaves crc16(IB[0..IBLEN)), or BufferRange with CRCACC = 0xFFFF. Formalises R104. -/
def Obligations.CrcBufChecksumsTheInputBuffer : Prop :=
  decodeCommand 0x00000003#32 = .instr .crcBuf ∧
    ∀ s : State,
      (s.cfg.bufCap < s.ib.len.toNat → ∃ t, exec .crcBuf s = .next t ∧ t.crcacc = 0xFFFF#16 ∧
        t.status.err = .bufferRange ∧ OnlyChecksum s t) ∧
      (s.ib.len.toNat ≤ s.cfg.bufCap → ∃ t, exec .crcBuf s = .next t ∧
        t.crcacc = crc16 ((List.range s.ib.len.toNat).map (ibByte s)) ∧ t.status.err = .ok ∧ OnlyChecksum s t ∧
        (s.ib.len = 0 → t.crcacc = 0xFFFF#16))

/-- Between CRC.INIT, CRC.BUF and SRESET, CRCACC depends on the CRC.BYTE commands alone. Rests on 10_state.md
(CRCACC), 70_reset_and_hazards.md section 3. That bytes may arrive between two commands as frames is log 4, the
host stream log 1, and the hardware reset as one of its actions log 14. -/
def Obligations.OtherCommandsLeaveTheStreamAlone : Prop :=
  (∀ (is : List Instr) (s t : State), (∀ i ∈ is, i ≠ .crcInit ∧ i ≠ .crcBuf ∧ i ≠ .sreset) →
      execAll is s = .next t →
      t.crcacc = (fedBytes is).foldl crcStep s.crcacc ∧
      ∀ pre, s.crcacc = crc16 pre → t.crcacc = crc16 (pre ++ fedBytes is)) ∧
    ∀ (n : Nat) (s t : State), (∀ a ∈ s.pending.take n, ¬RestartsStream a) → runSteps n s = .next t →
      t.crcacc = ((s.pending.take n).flatMap fedByAction).foldl crcStep s.crcacc ∧
      ∀ pre, s.crcacc = crc16 pre → t.crcacc = crc16 (pre ++ (s.pending.take n).flatMap fedByAction)

/-- ENC.RD stores the 8-byte frame of its operands with its checksum in OB. Rests on 41_frame_encoder.md (ENC.RD),
10_state.md section 4. That cells of OB at or beyond the length keep their contents is the choice of log 6: the
spec gives them no value. -/
def Obligations.EncodeReadRequestBuildsItsFrame : Prop :=
  decodeCommand 0x00000010#32 = .instr .encRd ∧
    ∀ s : State, ∃ t c, exec .encRd s = .next t ∧
      c = crc16 [s.op.unit, 0x03#8, hi8 s.op.addr, lo8 s.op.addr, hi8 s.op.qty, lo8 s.op.qty] ∧
      t.ob.len = 8 ∧
      (List.range 8).map (obByte t) =
        [s.op.unit, 0x03#8, hi8 s.op.addr, lo8 s.op.addr, hi8 s.op.qty, lo8 s.op.qty, lo8 c, hi8 c] ∧
      (∀ i, 8 ≤ i → obByte t i = obByte s i) ∧ t.status.err = .ok ∧ OnlyOutput s t

/-- ENC.WS stores the 8-byte frame of its operands with its checksum in OB. Rests on 41_frame_encoder.md (ENC.WS),
10_state.md section 4. That cells of OB at or beyond the length keep their contents is the choice of log 6: the
spec gives them no value. -/
def Obligations.EncodeWriteSingleBuildsItsFrame : Prop :=
  decodeCommand 0x00000011#32 = .instr .encWs ∧
    ∀ s : State, ∃ t c, exec .encWs s = .next t ∧
      c = crc16 [s.op.unit, 0x06#8, hi8 s.op.addr, lo8 s.op.addr, hi8 s.op.qty, lo8 s.op.qty] ∧
      t.ob.len = 8 ∧
      (List.range 8).map (obByte t) =
        [s.op.unit, 0x06#8, hi8 s.op.addr, lo8 s.op.addr, hi8 s.op.qty, lo8 s.op.qty, lo8 c, hi8 c] ∧
      (∀ i, 8 ≤ i → obByte t i = obByte s i) ∧ t.status.err = .ok ∧ OnlyOutput s t

/-- ENC.WM stores the frame of VB[0..VLEN) with its checksum in OB, or ends with EncodeRange. Rests on
41_frame_encoder.md (ENC.WM), 10_state.md section 4. That cells of OB at or beyond the length keep their contents
is the choice of log 6: the spec gives them no value. -/
def Obligations.EncodeWriteMultipleBuildsItsFrame : Prop :=
  decodeCommand 0x00000012#32 = .instr .encWm ∧
    ∀ s : State,
      (s.vb.len.toNat ≤ 127 → ∃ t c, exec .encWm s = .next t ∧
        c = crc16 (writeMultipleBytes s s.vb.len.toNat) ∧
        t.ob.len.toNat = 9 + 2 * s.vb.len.toNat ∧
        (List.range (9 + 2 * s.vb.len.toNat)).map (obByte t) =
          writeMultipleBytes s s.vb.len.toNat ++ [lo8 c, hi8 c] ∧
        (∀ i, 9 + 2 * s.vb.len.toNat ≤ i → obByte t i = obByte s i) ∧ t.status.err = .ok ∧ OnlyOutput s t) ∧
      (127 < s.vb.len.toNat → ∃ t, exec .encWm s = .next t ∧ t.ob.len = 0 ∧ (∀ i, obByte t i = obByte s i) ∧
        t.status.err = .encodeRange ∧ OnlyOutput s t) ∧
      ∀ (v : Reg16) (t : State), exec .encWm s = .next t →
        exec .encWm { s with op := { s.op with qty := v } } = .next { t with op := { t.op with qty := v } }

/-- Every frame an encoder stores ends with the checksum of its preceding bytes. Rests on 30_encoding.md Part A (frame
invariant), 41_frame_encoder.md (laws), 40_checksum.md section 3. -/
def Obligations.EncodedFramesCarryTheirOwnChecksum : Prop :=
  ∀ (i : Instr) (s t : State), (i = .encRd ∨ i = .encWs ∨ i = .encWm) → exec i s = .next t → t.status.err = .ok →
      8 ≤ t.ob.len.toNat ∧ t.ob.len.toNat ≤ 263 ∧
      be16 (obByte t (t.ob.len.toNat - 1)) (obByte t (t.ob.len.toNat - 2)) = crc16 (obSeq t (t.ob.len.toNat - 2)) ∧
      crc16 (obSeq t t.ob.len.toNat) = 0

/-- What an encoder stores is the code of the frame row with the same fields. Rests on 30_encoding.md Part A,
41_frame_encoder.md. -/
def Obligations.EncodersBuildTheTablesFrames : Prop :=
  ∀ s t : State,
      (exec .encRd s = .next t → decodeRequest (obSeq t t.ob.len.toNat) =
        .instr (.frameReadReq s.op.unit s.op.addr s.op.qty (crc16 (obSeq t 6)))) ∧
      (exec .encWs s = .next t → decodeRequest (obSeq t t.ob.len.toNat) =
        .instr (.frameWriteSingleReq s.op.unit s.op.addr s.op.qty (crc16 (obSeq t 6)))) ∧
      (exec .encWm s = .next t → t.status.err = .ok → decodeRequest (obSeq t t.ob.len.toNat) =
        .instr (.frameWriteMultipleReq s.op.unit s.op.addr ((List.range s.vb.len.toNat).map (vbCell s))
          (crc16 (obSeq t (7 + 2 * s.vb.len.toNat)))))

/-- Encode, copy OB to IB, parse: the original fields come back with CRCOK = 1. Rests on 41_frame_encoder.md (laws),
30_encoding.md Part B (OB2IB). The host stream is log 1. -/
def Obligations.EncodedRequestsParseBack : Prop :=
  ∀ s t : State, configWf s.cfg = true →
      (exec .encRd s = .next t → ∃ u, runHost t (expand t .ob2ib ++ [.issue 0x00000020#32]) = .next u ∧
        u.q = { unit := s.op.unit, fc := 3, addr := s.op.addr, qty := s.op.qty } ∧
        u.status.err = .ok ∧ u.status.crcok = true) ∧
      (exec .encWs s = .next t → ∃ u, runHost t (expand t .ob2ib ++ [.issue 0x00000020#32]) = .next u ∧
        u.q = { unit := s.op.unit, fc := 6, addr := s.op.addr, qty := s.op.qty } ∧
        u.status.err = .ok ∧ u.status.crcok = true) ∧
      (s.vb.len.toNat ≤ 127 → exec .encWm s = .next t →
        ∃ u, runHost t (expand t .ob2ib ++ [.issue 0x00000020#32]) = .next u ∧
        u.q = { unit := s.op.unit, fc := 16, addr := s.op.addr, qty := s.vb.len.setWidth 16 } ∧
        u.status.err = .ok ∧ u.status.crcok = true)

/-- DEC.REQ: BufferRange, MalformedRequest, strict CrcMismatch, else the four fields and the CRC verdict. Formalises
R121. -/
def Obligations.ParseRequestFollowsItsTests : Prop :=
  decodeCommand 0x00000020#32 = .instr .decReq ∧
    ∀ s : State,
      (s.cfg.bufCap < s.ib.len.toNat → ∃ t, exec .decReq s = .next t ∧ RequestFailed s t .bufferRange) ∧
      (s.ib.len.toNat ≤ s.cfg.bufCap → s.ib.len.toNat < 8 →
        ∃ t, exec .decReq s = .next t ∧ RequestFailed s t .malformedRequest) ∧
      (s.ib.len.toNat ≤ s.cfg.bufCap → 8 ≤ s.ib.len.toNat → s.strict = true →
        trailingCrcMatches s s.ib.len.toNat = false →
        ∃ t, exec .decReq s = .next t ∧ RequestFailed s t .crcMismatch) ∧
      (s.ib.len.toNat ≤ s.cfg.bufCap → 8 ≤ s.ib.len.toNat →
        (s.strict = true → trailingCrcMatches s s.ib.len.toNat = true) →
        ∃ t, exec .decReq s = .next t ∧
          t.q = { unit := ibByte s 0, fc := ibByte s 1, addr := be16 (ibByte s 2) (ibByte s 3),
                  qty := be16 (ibByte s 4) (ibByte s 5) } ∧
          t.status.crcok = trailingCrcMatches s s.ib.len.toNat ∧ t.status.err = .ok ∧ OnlyRequest s t)

/-- DEC.RSP ends with BufferRange, MalformedResponse, CrcMismatch or InconsistentByteCount, in that order, with no
result. Rests on 42_frame_decoder.md section 2 (DEC.RSP), 42_frame_decoder.md section 3 (byte-count consistency),
10_state.md section 4. That cells of RA at or beyond the length keep their contents is the choice of log 6: the
spec gives them no value. -/
def Obligations.ParseResponseFailsByItsTests : Prop :=
  decodeCommand 0x00000021#32 = .instr .decRsp ∧
    ∀ s : State,
      (s.cfg.bufCap < s.ib.len.toNat → ∃ t, exec .decRsp s = .next t ∧ ResponseFailed s t .bufferRange) ∧
      (s.ib.len.toNat ≤ s.cfg.bufCap → s.ib.len.toNat < 5 →
        ∃ t, exec .decRsp s = .next t ∧ ResponseFailed s t .malformedResponse) ∧
      (s.ib.len.toNat ≤ s.cfg.bufCap → 5 ≤ s.ib.len.toNat → s.strict = true →
        trailingCrcMatches s s.ib.len.toNat = false →
        ∃ t, exec .decRsp s = .next t ∧ ResponseFailed s t .crcMismatch) ∧
      (ResponseReadable s → (ibByte s 1).getLsbD 7 = false → s.ib.len.toNat < 3 + (ibByte s 2).toNat + 2 →
        ∃ t, exec .decRsp s = .next t ∧ ResponseFailed s t .inconsistentByteCount) ∧
      (ResponseReadable s → (ibByte s 1).getLsbD 7 = false → 3 + (ibByte s 2).toNat + 2 ≤ s.ib.len.toNat →
        (ibByte s 2).toNat % 2 = 1 → ∃ t, exec .decRsp s = .next t ∧ ResponseFailed s t .malformedResponse)

/-- A readable frame with bit 7 of byte 1 set reports ModbusException with its code and empties the register array.
Rests on 42_frame_decoder.md section 3 (exception handling), 43_register_engine.md section 1, 10_state.md section
4. That cells of RA at or beyond the length keep their contents is the choice of log 6: the spec gives them no
value. -/
def Obligations.ExceptionResponseIsSurfaced : Prop :=
  (∀ s : State, ResponseReadable s → (ibByte s 1).getLsbD 7 = true → ∃ t, exec .decRsp s = .next t ∧
      t.p.unit = ibByte s 0 ∧ t.p.fc = ibByte s 1 ∧ t.p.exc = ibByte s 2 ∧ t.p.bc = 0 ∧ t.p.ralen = 0 ∧
      (∀ i, raReg t i = raReg s i) ∧
      t.status = { err := .modbusException, isexc := true, crcok := trailingCrcMatches s s.ib.len.toNat,
                   rav := false } ∧
      OnlyResponse s t ∧
      ∀ i, isEngine i → ∃ u, exec i t = .next u ∧ u.status.err = .decodeBlocked) ∧
    ∀ s t : State, exec .decRsp s = .next t → (ibByte s 1).getLsbD 7 = false →
      t.status.err ≠ .modbusException ∧ t.status.isexc = false

/-- An accepted normal response delivers bc/2 big-endian registers and RAV = 1. Rests on 42_frame_decoder.md sections
2 and 3, 30_encoding.md Part A, 10_state.md section 4. That cells of RA at or beyond the length keep their
contents is the choice of log 6: the spec gives them no value. -/
def Obligations.NormalResponseDeliversItsRegisters : Prop :=
  ∀ s : State, ResponseReadable s → NormalResponse s → ∃ t, exec .decRsp s = .next t ∧
      t.p.unit = ibByte s 0 ∧ t.p.fc = ibByte s 1 ∧ t.p.exc = 0 ∧ t.p.bc = ibByte s 2 ∧
      2 * t.p.ralen.toNat = (ibByte s 2).toNat ∧
      (∀ i, i < (ibByte s 2).toNat / 2 → raReg t i = be16 (ibByte s (3 + 2 * i)) (ibByte s (4 + 2 * i))) ∧
      (∀ i, (ibByte s 2).toNat / 2 ≤ i → raReg t i = raReg s i) ∧
      t.status = { err := .ok, isexc := false, crcok := trailingCrcMatches s s.ib.len.toNat, rav := true } ∧
      OnlyResponse s t

/-- In lenient policy no result but CRCOK depends on the last two bytes of the sequence. Rests on 42_frame_decoder.md
section 4. -/
def Obligations.LenientResultsIgnoreTheTrailingChecksum : Prop :=
  ∀ s₁ s₂ : State, s₁.strict = false → s₂.strict = false → s₁.cfg.bufCap = s₂.cfg.bufCap →
      s₁.ib.len = s₂.ib.len → (∀ i, i + 2 < s₁.ib.len.toNat → ibByte s₁ i = ibByte s₂ i) →
      (∃ t₁ t₂, exec .decReq s₁ = .next t₁ ∧ exec .decReq s₂ = .next t₂ ∧ t₁.q = t₂.q ∧
        t₁.status.err = t₂.status.err) ∧
      ∃ t₁ t₂, exec .decRsp s₁ = .next t₁ ∧ exec .decRsp s₂ = .next t₂ ∧
        t₁.p.unit = t₂.p.unit ∧ t₁.p.fc = t₂.p.fc ∧ t₁.p.exc = t₂.p.exc ∧ t₁.p.bc = t₂.p.bc ∧
        t₁.p.ralen = t₂.p.ralen ∧ (∀ i, i < t₁.p.ralen.toNat → raReg t₁ i = raReg t₂ i) ∧
        t₁.status.isexc = t₂.status.isexc ∧ t₁.status.rav = t₂.status.rav ∧ t₁.status.err = t₂.status.err

/-- The parse results are a function of IB[0..IBLEN), IBLEN and CTRL.STRICT. Rests on 42_frame_decoder.md section 4. -/
def Obligations.ParsingReadsOnlyItsInput : Prop :=
  ∀ s₁ s₂ : State, s₁.strict = s₂.strict → s₁.cfg.bufCap = s₂.cfg.bufCap →
      s₁.ib.len = s₂.ib.len → (∀ i, i < s₁.ib.len.toNat → ibByte s₁ i = ibByte s₂ i) →
      (∃ t₁ t₂, exec .decReq s₁ = .next t₁ ∧ exec .decReq s₂ = .next t₂ ∧ t₁.q = t₂.q ∧
        t₁.status.err = t₂.status.err ∧ t₁.status.crcok = t₂.status.crcok) ∧
      ∃ t₁ t₂, exec .decRsp s₁ = .next t₁ ∧ exec .decRsp s₂ = .next t₂ ∧
        t₁.p.unit = t₂.p.unit ∧ t₁.p.fc = t₂.p.fc ∧ t₁.p.exc = t₂.p.exc ∧ t₁.p.bc = t₂.p.bc ∧
        t₁.p.ralen = t₂.p.ralen ∧ (∀ i, i < t₁.p.ralen.toNat → raReg t₁ i = raReg t₂ i) ∧ t₁.status = t₂.status

/-- After a parse RAV and ISEXC agree with ERR, strict success has CRCOK = 1, and lenient policy never ends with
CrcMismatch. Rests on 42_frame_decoder.md sections 1 and 4, 10_state.md section 5. -/
def Obligations.ParseVerdictsAgreeWithTheOutcome : Prop :=
  ∀ s t : State,
      (exec .decRsp s = .next t →
        (t.status.rav = true ↔ t.status.err = .ok) ∧ (t.status.isexc = true ↔ t.status.err = .modbusException) ∧
        (s.strict = true → t.status.err = .ok ∨ t.status.err = .modbusException → t.status.crcok = true) ∧
        (s.strict = false → t.status.err ≠ .crcMismatch)) ∧
      (exec .decReq s = .next t →
        (s.strict = true → t.status.err = .ok → t.status.crcok = true) ∧
        (s.strict = false → t.status.err ≠ .crcMismatch))

/-- EXT.U16 idx, sc: RA[idx], unsigned. Formalises R142. -/
def Obligations.ExtractU16ReadsARegister : Prop :=
  (∀ (idx : Byte) (sc : BitVec 2),
      decodeCommand (0x00000030#32 ||| (idx.setWidth 32 <<< 8) ||| (sc.setWidth 32 <<< 20)) = .instr (.extU16 idx sc)) ∧
    ∀ (idx : Byte) (sc : BitVec 2) (s : State),
      (Extractable s idx.toNat 1 sc.toNat → ∃ t, exec (.extU16 idx sc) s = .next t ∧
        Extracted s t (scaleTag sc.toNat) ((raReg s idx.toNat).toNat : Int)) ∧
      (¬Extractable s idx.toNat 1 sc.toNat → ∃ t, exec (.extU16 idx sc) s = .next t ∧
        ExtractionFailed s t (if s.status.rav = false then .decodeBlocked
          else if 2 ≤ sc.toNat then .reservedScale else .indexRange))

/-- EXT.S16 idx, sc: RA[idx] when below 0x8000, RA[idx] - 65536 otherwise. Formalises R143. -/
def Obligations.ExtractS16ReinterpretsARegister : Prop :=
  (∀ (idx : Byte) (sc : BitVec 2),
      decodeCommand (0x00000031#32 ||| (idx.setWidth 32 <<< 8) ||| (sc.setWidth 32 <<< 20)) = .instr (.extS16 idx sc)) ∧
    ∀ (idx : Byte) (sc : BitVec 2) (s : State),
      (Extractable s idx.toNat 1 sc.toNat → ∃ t, exec (.extS16 idx sc) s = .next t ∧
        Extracted s t (scaleTag sc.toNat) (if (raReg s idx.toNat).toNat < 0x8000 then ((raReg s idx.toNat).toNat : Int) else ((raReg s idx.toNat).toNat : Int) - 65536)) ∧
      (¬Extractable s idx.toNat 1 sc.toNat → ∃ t, exec (.extS16 idx sc) s = .next t ∧
        ExtractionFailed s t (if s.status.rav = false then .decodeBlocked
          else if 2 ≤ sc.toNat then .reservedScale else .indexRange))

/-- EXT.U32H idx, sc: 65536 * RA[idx] + RA[idx+1]. Formalises R144. -/
def Obligations.ExtractU32HComposesHighWordFirst : Prop :=
  (∀ (idx : Byte) (sc : BitVec 2),
      decodeCommand (0x00000032#32 ||| (idx.setWidth 32 <<< 8) ||| (sc.setWidth 32 <<< 20)) = .instr (.extU32H idx sc)) ∧
    ∀ (idx : Byte) (sc : BitVec 2) (s : State),
      (Extractable s idx.toNat 2 sc.toNat → ∃ t, exec (.extU32H idx sc) s = .next t ∧
        Extracted s t (scaleTag sc.toNat) (65536 * ((raReg s idx.toNat).toNat : Int) + ((raReg s (idx.toNat + 1)).toNat : Int))) ∧
      (¬Extractable s idx.toNat 2 sc.toNat → ∃ t, exec (.extU32H idx sc) s = .next t ∧
        ExtractionFailed s t (if s.status.rav = false then .decodeBlocked
          else if 2 ≤ sc.toNat then .reservedScale else .indexRange))

/-- EXT.U32L idx, sc: 65536 * RA[idx+1] + RA[idx]. Formalises R145. -/
def Obligations.ExtractU32LComposesLowWordFirst : Prop :=
  (∀ (idx : Byte) (sc : BitVec 2),
      decodeCommand (0x00000033#32 ||| (idx.setWidth 32 <<< 8) ||| (sc.setWidth 32 <<< 20)) = .instr (.extU32L idx sc)) ∧
    ∀ (idx : Byte) (sc : BitVec 2) (s : State),
      (Extractable s idx.toNat 2 sc.toNat → ∃ t, exec (.extU32L idx sc) s = .next t ∧
        Extracted s t (scaleTag sc.toNat) (65536 * ((raReg s (idx.toNat + 1)).toNat : Int) + ((raReg s idx.toNat).toNat : Int))) ∧
      (¬Extractable s idx.toNat 2 sc.toNat → ∃ t, exec (.extU32L idx sc) s = .next t ∧
        ExtractionFailed s t (if s.status.rav = false then .decodeBlocked
          else if 2 ≤ sc.toNat then .reservedScale else .indexRange))

/-- EXT.HIB idx: RA[idx][15:8]. Formalises R146. -/
def Obligations.ExtractHighByte : Prop :=
  (∀ idx : Byte, decodeCommand (0x00000034#32 ||| (idx.setWidth 32 <<< 8)) = .instr (.extHib idx)) ∧
    (∀ w : CmdWord, fieldOpc w = 0x34#8 → fieldSc w ≠ 0 ∨ fieldB w ≠ 0 → ∃ r, decodeCommand w = .rejected r) ∧
    ∀ (idx : Byte) (s : State),
      (Extractable s idx.toNat 1 0 → ∃ t, exec (.extHib idx) s = .next t ∧
        Extracted s t .int (((raReg s idx.toNat).toNat / 256 : Nat))) ∧
      (¬Extractable s idx.toNat 1 0 → ∃ t, exec (.extHib idx) s = .next t ∧
        ExtractionFailed s t (if s.status.rav = false then .decodeBlocked else .indexRange))

/-- EXT.LOB idx: RA[idx][7:0]. Formalises R147. -/
def Obligations.ExtractLowByte : Prop :=
  (∀ idx : Byte, decodeCommand (0x00000035#32 ||| (idx.setWidth 32 <<< 8)) = .instr (.extLob idx)) ∧
    (∀ w : CmdWord, fieldOpc w = 0x35#8 → fieldSc w ≠ 0 ∨ fieldB w ≠ 0 → ∃ r, decodeCommand w = .rejected r) ∧
    ∀ (idx : Byte) (s : State),
      (Extractable s idx.toNat 1 0 → ∃ t, exec (.extLob idx) s = .next t ∧
        Extracted s t .int (((raReg s idx.toNat).toNat % 256 : Nat))) ∧
      (¬Extractable s idx.toNat 1 0 → ∃ t, exec (.extLob idx) s = .next t ∧
        ExtractionFailed s t (if s.status.rav = false then .decodeBlocked else .indexRange))

/-- EXT.BIT idx, k: bit k of RA[idx] as a BOOL, for k in 0 to 7. Formalises R148. -/
def Obligations.ExtractBitOfTheLowByte : Prop :=
  (∀ (idx : Byte) (k : BitVec 4),
      decodeCommand (0x00000036#32 ||| (idx.setWidth 32 <<< 8) ||| (k.setWidth 32 <<< 16)) = .instr (.extBit idx k)) ∧
    (∀ w : CmdWord, fieldOpc w = 0x36#8 → fieldSc w ≠ 0 → ∃ r, decodeCommand w = .rejected r) ∧
    ∀ (idx : Byte) (k : BitVec 4) (s : State),
      (Extractable s idx.toNat 1 0 → k.toNat ≤ 7 → ∃ t, exec (.extBit idx k) s = .next t ∧
        Extracted s t .bool ((raReg s idx.toNat).toNat / 2 ^ k.toNat % 2 : Nat)) ∧
      (¬(Extractable s idx.toNat 1 0 ∧ k.toNat ≤ 7) → ∃ t, exec (.extBit idx k) s = .next t ∧
        ExtractionFailed s t (if s.status.rav = false then .decodeBlocked
          else if 7 < k.toNat then .bitRange else .indexRange))

/-- The extraction commands test RAV, the scale, the bit position and the index, in that order. Formalises R141. -/
def Obligations.ExtractionTestsComeInOrder : Prop :=
  ∀ (i : Instr) (kind : Kind) (idx k sc : Nat), extOperands i = some (kind, idx, k, sc) → ∀ s : State,
      (s.status.rav = false → ∃ t, exec i s = .next t ∧ ExtractionFailed s t .decodeBlocked) ∧
      (s.status.rav = true → 2 ≤ sc → ∃ t, exec i s = .next t ∧ ExtractionFailed s t .reservedScale) ∧
      (s.status.rav = true → sc < 2 → 7 < k → ∃ t, exec i s = .next t ∧ ExtractionFailed s t .bitRange) ∧
      (s.status.rav = true → sc < 2 → k ≤ 7 → s.p.ralen.toNat < idx + span kind →
        ∃ t, exec i s = .next t ∧ ExtractionFailed s t .indexRange) ∧
      (s.status.rav = true → sc < 2 → k ≤ 7 → idx + span kind ≤ s.p.ralen.toNat →
        ∃ t, exec i s = .next t ∧ t.xr = extractValue s kind idx k sc ∧ t.status.err = .ok ∧ OnlyExtraction s t)

/-- The extraction function in exact integer arithmetic, for all seven kinds. Rests on 43_register_engine.md section 1
(extraction function), 10_state.md section 4 (typed values). The range clause is an inference the spec marks
[derived] in 10_state.md section 4. -/
def Obligations.ExtractedValuesInIntegers : Prop :=
  (∀ (s : State) (idx k sc : Nat), k ≤ 7 → sc ≤ 1 →
      (extractValue s .u16 idx k sc).m.toInt = ((raReg s idx).toNat : Int) ∧
      (extractValue s .s16 idx k sc).m.toInt =
        (if (raReg s idx).toNat < 0x8000 then ((raReg s idx).toNat : Int) else ((raReg s idx).toNat : Int) - 65536) ∧
      (extractValue s .u32h idx k sc).m.toInt =
        65536 * ((raReg s idx).toNat : Int) + ((raReg s (idx + 1)).toNat : Int) ∧
      (extractValue s .u32l idx k sc).m.toInt =
        65536 * ((raReg s (idx + 1)).toNat : Int) + ((raReg s idx).toNat : Int) ∧
      (extractValue s .hib idx k sc).m.toInt = (((raReg s idx).toNat / 256 : Nat) : Int) ∧
      (extractValue s .lob idx k sc).m.toInt = (((raReg s idx).toNat % 256 : Nat) : Int) ∧
      (extractValue s .bit idx k sc).m.toInt = (((raReg s idx).toNat / 2 ^ k % 2 : Nat) : Int) ∧
      (∀ kind ∈ [Kind.u16, .s16, .u32h, .u32l], (extractValue s kind idx k sc).t = scaleTag sc) ∧
      (extractValue s .hib idx k sc).t = .int ∧ (extractValue s .lob idx k sc).t = .int ∧
      (extractValue s .bit idx k sc).t = .bool ∧
      ∀ kind, -32768 ≤ (extractValue s kind idx k sc).m.toInt ∧ (extractValue s kind idx k sc).m.toInt ≤ 4294967295) ∧
    ∀ (s : State) (kind : Kind) (idx k sc : Nat), extractDefined s kind idx k sc = true ↔
      idx + span kind ≤ s.p.ralen.toNat ∧ k ≤ 7 ∧ sc ≤ 1

/-- Scaling by tenths keeps the raw integer as mantissa, and the half-up rounding of r / 10 changes nothing. Rests on
43_register_engine.md section 1 (scaling), 10_state.md section 4 (typed values). That the rounding changes nothing
is an inference the spec marks [derived]. -/
def Obligations.ScalingNeedsNoRounding : Prop :=
  (∀ m : Mantissa, scale m 0 = { t := .int, m := m } ∧ scale m 1 = { t := .dec1, m := m } ∧
      denote (scale m 0) = (m.toInt : ℚ) ∧ denote (scale m 1) = (m.toInt : ℚ) / 10 ∧
      denote (scale m 1) = roundHalfUp1 ((m.toInt : ℚ) * (1 / 10))) ∧
    ∀ r : Int, roundHalfUp1 ((r : ℚ) / 10) = (r : ℚ) / 10

/-- select returns the first rule, in table order, whose address matches and whose count is satisfied, or none.
Formalises R150. -/
def Obligations.SelectionIsTheFirstMatch : Prop :=
  (∀ (addr : Reg16) (n : Nat) (rs : List Rule) (r : Rule), selectRule addr n rs = some r ↔
      ∃ pre post, rs = pre ++ r :: post ∧ r.addr = addr ∧ r.minCount ≤ n ∧
        ∀ q ∈ pre, ¬(q.addr = addr ∧ q.minCount ≤ n)) ∧
    ∀ (addr : Reg16) (n : Nat) (rs : List Rule), selectRule addr n rs = none ↔
      ∀ q ∈ rs, ¬(q.addr = addr ∧ q.minCount ≤ n)

/-- RDE.DECODE: DecodeBlocked, the Unknown variant, or the fields of the selected rule. Rests on 43_register_engine.md
section 3 (RDE.DECODE, Unknown variant), 10_state.md section 4. That cells of FO at or beyond the length keep
their contents is the choice of log 6: the spec gives them no value. -/
def Obligations.RuleDecodeFollowsItsCases : Prop :=
  (∀ fc : Byte, decodeCommand (0x00000038#32 ||| (fc.setWidth 32 <<< 8)) = .instr (.rdeDecode fc)) ∧
    ∀ (fc : Byte) (s : State), configWf s.cfg = true →
      (s.status.rav = false → ∃ t, exec (.rdeDecode fc) s = .next t ∧ t.db.id = 0 ∧ t.db.fc = 0 ∧ t.db.addr = 0 ∧
        t.db.folen = 0 ∧ (∀ j, foEntry t j = foEntry s j) ∧ t.status.err = .decodeBlocked ∧ OnlyBlock s t) ∧
      (s.status.rav = true → selectRule s.op.addr s.p.ralen.toNat s.cfg.rules = none →
        ∃ t, exec (.rdeDecode fc) s = .next t ∧ t.db.id = 0 ∧ t.db.fc = fc ∧ t.db.addr = s.op.addr ∧
          t.db.folen = 0 ∧ (∀ j, foEntry t j = foEntry s j) ∧ t.status.err = .ok ∧ OnlyBlock s t) ∧
      (s.p.ralen = 0 → selectRule s.op.addr s.p.ralen.toNat s.cfg.rules = none) ∧
      ∀ r, s.status.rav = true → selectRule s.op.addr s.p.ralen.toNat s.cfg.rules = some r →
        ∃ t, exec (.rdeDecode fc) s = .next t ∧ t.db.id = r.blockId ∧ r.blockId ≠ 0 ∧ t.db.fc = fc ∧ t.db.addr = s.op.addr ∧
          t.db.folen.toNat = r.fields.length ∧
          (∀ j d, r.fields[j]? = some d → ∃ kind, kindOfCode d.kind = some kind ∧
            extractDefined s kind d.idx d.k d.sc = true ∧
            foEntry t j = { fid := d.fid, t := (extractValue s kind d.idx d.k d.sc).t,
                            m := (extractValue s kind d.idx d.k d.sc).m }) ∧
          (∀ j, r.fields.length ≤ j → foEntry t j = foEntry s j) ∧ t.status.err = .ok ∧ OnlyBlock s t

/-- RDE.DECODE and EXT results depend only on the operands, RA[0..RALEN), RAV and RULES, and repeat. Rests on
43_register_engine.md section 4 (idempotence). The form the law has in the block is an inference the spec marks
[derived: from rule R151]. -/
def Obligations.DecodingIsAFunctionOfItsInputs : Prop :=
  (∀ (s₁ s₂ : State), configWf s₁.cfg = true → configWf s₂.cfg = true → s₁.cfg.rules = s₂.cfg.rules →
      s₁.op.addr = s₂.op.addr → s₁.p.ralen = s₂.p.ralen → s₁.status.rav = s₂.status.rav →
      (∀ i, i < s₁.p.ralen.toNat → raReg s₁ i = raReg s₂ i) →
      (∀ fc, ∃ t₁ t₂, exec (.rdeDecode fc) s₁ = .next t₁ ∧ exec (.rdeDecode fc) s₂ = .next t₂ ∧
        t₁.db.id = t₂.db.id ∧ t₁.db.fc = t₂.db.fc ∧ t₁.db.addr = t₂.db.addr ∧ t₁.db.folen = t₂.db.folen ∧
        (∀ j, j < t₁.db.folen.toNat → foEntry t₁ j = foEntry t₂ j) ∧ t₁.status.err = t₂.status.err) ∧
      ∀ i, (extOperands i).isSome = true → ∃ t₁ t₂, exec i s₁ = .next t₁ ∧ exec i s₂ = .next t₂ ∧ t₁.xr = t₂.xr ∧
        t₁.status.err = t₂.status.err) ∧
    (∀ (fc : Byte) (s t : State), exec (.rdeDecode fc) s = .next t → ∃ u, exec (.rdeDecode fc) t = .next u ∧
      u.db.id = t.db.id ∧ u.db.fc = t.db.fc ∧ u.db.addr = t.db.addr ∧ u.db.folen = t.db.folen ∧
      ∀ j, j < t.db.folen.toNat → foEntry u j = foEntry t j) ∧
    ∀ (i : Instr) (s t : State), (extOperands i).isSome = true → exec i s = .next t →
      ∃ u, exec i t = .next u ∧ u.xr = t.xr

/-- An appended rule changes only inputs that gave Unknown; a rule after one of its address with a smaller or equal
minCount is never selected. Rests on 43_register_engine.md section 4 (additivity), 43_register_engine.md section 3
(rule selection). Both are inferences the spec marks [derived]. -/
def Obligations.AppendedAndShadowedRules : Prop :=
  (∀ (c : Config) (q : Rule), rulesWf { c with rules := c.rules ++ [q] } = true → ∀ (addr : Reg16) (n : Nat),
      (∀ r, selectRule addr n c.rules = some r → selectRule addr n (c.rules ++ [q]) = some r) ∧
      (selectRule addr n c.rules = none →
        selectRule addr n (c.rules ++ [q]) = none ∨ selectRule addr n (c.rules ++ [q]) = some q)) ∧
    ∀ (c : Config) (front mid back : List Rule) (a b : Rule), rulesWf c = true →
      c.rules = front ++ a :: (mid ++ b :: back) → a.addr = b.addr → a.minCount ≤ b.minCount →
      ∀ (addr : Reg16) (n : Nat), selectRule addr n c.rules ≠ some b

/-- After a DEC.RSP that did not succeed, every engine command is DecodeBlocked until a later DEC.RSP. Rests on
70_reset_and_hazards.md section 3 (decode after exception). The spec marks this hazard [derived: from rules R122
and R123 of 42_frame_decoder.md]. The host stream is log 1, arriving bytes log 4, the hardware reset as an action
log 14. -/
def Obligations.EngineIsBlockedAfterAFailedResponse : Prop :=
  (∀ s t : State, s.status.rav = false → (∀ a ∈ s.pending.take 1, issuedInstr a ≠ some .decRsp) →
      step s = .next t → t.status.rav = false) ∧
    (∀ (n : Nat) (s t u : State), exec .decRsp s = .next t → t.status.err ≠ .ok →
      (∀ a ∈ t.pending.take n, issuedInstr a ≠ some .decRsp) → runSteps n t = .next u →
      u.status.rav = false ∧ ∀ i, isEngine i → ∃ v, exec i u = .next v ∧ v.status.err = .decodeBlocked) ∧
    (∀ (s t u : State) (is : List Instr), exec .decRsp s = .next t → t.status.err ≠ .ok → (∀ i ∈ is, i ≠ .decRsp) →
      execAll is t = .next u → ∀ i, isEngine i → ∃ v, exec i u = .next v ∧ v.status.err = .decodeBlocked) ∧
    ∀ s : State, s.strict = false → s.ib.len.toNat ≤ s.cfg.bufCap → 5 ≤ s.ib.len.toNat → NormalResponse s →
      trailingCrcMatches s s.ib.len.toNat = false →
      ∃ t, exec .decRsp s = .next t ∧ t.status.rav = true ∧ t.status.crcok = false ∧ t.status.err = .ok

/-- rules_wf is the conjunction of its nine named checks. Rests on 30_encoding.md Part C. -/
def Obligations.WellFormedTablesPassTheNineChecks : Prop :=
  ∀ c : Config, rulesWf c = true ↔
      c.rules.length ≤ c.rtCap ∧
      (c.rules.Pairwise fun a b => ¬(a.addr = b.addr ∧ a.minCount = b.minCount)) ∧
      ∀ r ∈ c.rules, 1 ≤ r.minCount ∧ r.minCount ≤ 127 ∧ r.blockId ≠ 0 ∧ r.fields.length ≤ c.foCap ∧
        ∀ d ∈ r.fields, d.kind ≤ 6 ∧ d.idx + (if d.kind = 2 ∨ d.kind = 3 then 2 else 1) ≤ r.minCount ∧
          d.k ≤ 7 ∧ (d.kind ≠ 6 → d.k = 0) ∧ d.sc ≤ 1 ∧ (d.kind = 4 ∨ d.kind = 5 ∨ d.kind = 6 → d.sc = 0)

/-- Under a configuration that fails its checks no step is taken; the empty table is well-formed and decodes
everything to Unknown. Rests on 70_reset_and_hazards.md section 2, 93_implementation_defined.md row 18. That no
step is taken is the fault configNotWellFormed, the form of log 9. -/
def Obligations.IllFormedConfigurationNeverLeavesReset : Prop :=
  (∀ s : State, configWf s.cfg = false → step s = .fault .configNotWellFormed) ∧
    (∀ c : Config, 263 ≤ c.bufCap → c.bufCap ≤ 65535 → 1 ≤ c.foCap → c.foCap ≤ 255 → c.rules = [] →
      configWf c = true) ∧
    ∀ (fc : Byte) (s : State), s.cfg.rules = [] → s.status.rav = true →
      ∃ t, exec (.rdeDecode fc) s = .next t ∧ t.db.id = 0 ∧ t.db.folen = 0 ∧ t.status.err = .ok

/-- After reset every readable register and cell reads as zero, except CRCACC = 0xFFFF. Rests on 10_state.md section
7, 70_reset_and_hazards.md section 1. -/
def Obligations.ResetValuesAreTheSpecs : Prop :=
  ∀ c : Config,
      (∀ (tg : Target) (v : HostValue), readTarget (State.resetWith c) tg = some v →
        v = .num (if tg = .crcacc then 0xFFFF else 0)) ∧
      (∀ i, readTarget (State.resetWith c) (.ob i) = none ∧ readTarget (State.resetWith c) (.ra i) = none ∧
        readTarget (State.resetWith c) (.fo i) = none) ∧
      (∀ i, i < c.bufCap → readTarget (State.resetWith c) (.ib i) = some (.num 0)) ∧
      (∀ i, i < 127 → readTarget (State.resetWith c) (.vb i) = some (.num 0)) ∧
      (State.resetWith c).status = { err := .ok, isexc := false, crcok := false, rav := false }

/-- SRESET puts every piece of state at its reset value and keeps the configuration. Rests on 44_system.md (SRESET),
10_state.md section 7, 70_reset_and_hazards.md section 1. That cells no host can read are zero too is log 7; that
the host stream and the delivered value stay is log 17; the hardware reset as an action is log 14. -/
def Obligations.SoftResetIsHardwareReset : Prop :=
  decodeCommand 0x0000007F#32 = .instr .sreset ∧
    ∀ s : State, ∃ t, exec .sreset s = .next t ∧ perform .hardReset s = .next t ∧
      t = { State.resetWith s.cfg with pending := s.pending, delivered := s.delivered } ∧
      statusWord t.status = 0 ∧ t.crcacc = 0xFFFF#16 ∧ t.ib.len = 0 ∧ t.vb.len = 0 ∧ t.ob.len = 0 ∧
      t.p.ralen = 0 ∧ t.db.folen = 0 ∧ t.op = { unit := 0, addr := 0, qty := 0 } ∧ t.strict = false ∧
      (∀ i, ibByte t i = 0 ∧ vbCell t i = 0) ∧ t.cfg = s.cfg

/-- An admitted host write stores its value at its target and changes nothing else; others are refused. Rests on
44_system.md (HostWrite, Issue), 10_state.md section 5 (CMD). That a write to CMD of more than 32 bits is refused
is a deduction of the model (log 13). -/
def Obligations.HostWritesStoreOnlyTheirTarget : Prop :=
  (∀ (s : State) (tg : Target) (v n : Nat), writeWidth s.cfg tg = some n → v < 2 ^ n →
      ∃ t, hostWrite tg v s = .next t ∧ readTarget t tg = some (.num (if tg = .ctrl then v % 2 else v)) ∧
        (∀ tg', tg' ≠ tg → readTarget t tg' = readTarget s tg') ∧ SameResults s t) ∧
    (∀ (s : State) (tg : Target) (v n : Nat), writeWidth s.cfg tg = some n → 2 ^ n ≤ v →
      ∃ r, hostWrite tg v s = .refused r) ∧
    (∀ (s : State) (tg : Target) (v : Nat), writeWidth s.cfg tg = none → tg ≠ .cmd →
      ∃ r, hostWrite tg v s = .refused r) ∧
    (∀ (s : State) (v : Nat), v < 2 ^ 32 → hostWrite .cmd v s = runCode (.cmd (BitVec.ofNat 32 v)) s) ∧
    ∀ (s : State) (v : Nat), 2 ^ 32 ≤ v → hostWrite .cmd v s = .refused (.valueTooWide .cmd)

/-- A host read returns the target's value and changes nothing; CMD and cells at or beyond their bound are refused.
Rests on 44_system.md (HostRead), 10_state.md sections 2 to 5, 20_memory.md section 3. The tag codes are those of
10_state.md section 4. That the value is delivered in a field of its own, as the number of its bits, is the choice
of log 10. -/
def Obligations.HostReadsChangeNothing : Prop :=
  (∀ (s : State) (tg : Target) (v : HostValue), readTarget s tg = some v →
      ∃ t, hostRead tg s = .next t ∧ t = { s with delivered := some v } ∧ hostRead tg t = .next t) ∧
    (∀ (s : State) (tg : Target), readTarget s tg = none ↔ ∃ r, hostRead tg s = .refused r) ∧
    (∀ (s : State) (tg : Target), readTarget s tg = none ↔
      tg = .cmd ∨ (∃ i, tg = .ib i ∧ s.cfg.bufCap ≤ i) ∨ (∃ i, tg = .vb i ∧ 127 ≤ i) ∨
      (∃ i, tg = .ob i ∧ s.ob.len.toNat ≤ i) ∨ (∃ i, tg = .ra i ∧ s.p.ralen.toNat ≤ i) ∨
      ∃ i, tg = .fo i ∧ s.db.folen.toNat ≤ i) ∧
    ∀ s : State,
      (readTarget s .opUnit = some (.num s.op.unit.toNat) ∧ readTarget s .opAddr = some (.num s.op.addr.toNat) ∧
        readTarget s .opQty = some (.num s.op.qty.toNat)) ∧
      (readTarget s .iblen = some (.num s.ib.len.toNat) ∧ readTarget s .vlen = some (.num s.vb.len.toNat) ∧
        (∀ i, i < s.cfg.bufCap → readTarget s (.ib i) = some (.num (ibByte s i).toNat)) ∧
        ∀ i, i < 127 → readTarget s (.vb i) = some (.num (vbCell s i).toNat)) ∧
      (readTarget s .ctrl = some (.num (ctrlWord s.strict).toNat) ∧
        readTarget s .status = some (.num (statusWord s.status).toNat) ∧
        readTarget s .crcacc = some (.num s.crcacc.toNat)) ∧
      (readTarget s .oblen = some (.num s.ob.len.toNat) ∧
        ∀ i, i < s.ob.len.toNat → readTarget s (.ob i) = some (.num (obByte s i).toNat)) ∧
      (readTarget s .qUnit = some (.num s.q.unit.toNat) ∧ readTarget s .qFc = some (.num s.q.fc.toNat) ∧
        readTarget s .qAddr = some (.num s.q.addr.toNat) ∧ readTarget s .qQty = some (.num s.q.qty.toNat)) ∧
      (readTarget s .pUnit = some (.num s.p.unit.toNat) ∧ readTarget s .pFc = some (.num s.p.fc.toNat) ∧
        readTarget s .pExc = some (.num s.p.exc.toNat) ∧ readTarget s .pBc = some (.num s.p.bc.toNat) ∧
        readTarget s .ralen = some (.num s.p.ralen.toNat) ∧
        ∀ i, i < s.p.ralen.toNat → readTarget s (.ra i) = some (.num (raReg s i).toNat)) ∧
      (readTarget s .xrT = some (.num (if s.xr.t = .int then 0 else if s.xr.t = .dec1 then 1 else 2)) ∧
        readTarget s .xrM = some (.num s.xr.m.toNat)) ∧
      (readTarget s .dbId = some (.num s.db.id.toNat) ∧ readTarget s .dbFc = some (.num s.db.fc.toNat) ∧
        readTarget s .dbAddr = some (.num s.db.addr.toNat) ∧ readTarget s .folen = some (.num s.db.folen.toNat) ∧
        ∀ i, i < s.db.folen.toNat → readTarget s (.fo i) = some (.entry (foEntry s i)))

/-- STATUS has ERR in 7:0, ISEXC 8, CRCOK 9, RAV 10 and zeros above; CTRL has STRICT in bit 0 and zeros above. Rests
on 10_state.md section 5. -/
def Obligations.StatusAndControlWords : Prop :=
  (∀ st : Status, (statusWord st).setWidth 8 = errCode st.err ∧ (statusWord st).getLsbD 8 = st.isexc ∧
      (statusWord st).getLsbD 9 = st.crcok ∧ (statusWord st).getLsbD 10 = st.rav ∧ statusWord st >>> 11 = 0) ∧
    (∀ b : Bool, (ctrlWord b).getLsbD 0 = b ∧ ctrlWord b >>> 1 = 0) ∧
    (∀ s : State, readTarget s .status = some (.num (statusWord s.status).toNat) ∧
      readTarget s .ctrl = some (.num (ctrlWord s.strict).toNat)) ∧
    ∀ (v : Nat) (s : State), hostWrite .status v s = .refused (.writeNotAdmitted .status)

/-- Each frame row puts its bytes in IB[0..n) and n in IBLEN and changes nothing else. Rests on 00_scope.md section 5
(hex-string boundary), 30_encoding.md Part A, 30_encoding.md Part B (LDIB). That executing a frame row is the
arrival of its bytes is the choice of log 4. -/
def Obligations.FramesArriveInTheInputBuffer : Prop :=
  (∀ (i : Instr) (s : State), i.isCommand = false → i.wf = true → (encode i).bytes.length ≤ s.cfg.bufCap →
      ∃ t, exec i s = .next t ∧ t.ib.len.toNat = (encode i).bytes.length ∧
        (List.range (encode i).bytes.length).map (ibByte t) = (encode i).bytes ∧
        (∀ j, (encode i).bytes.length ≤ j → ibByte t j = ibByte s j) ∧
        t.op = s.op ∧ t.vb.len = s.vb.len ∧ (∀ j, vbCell t j = vbCell s j) ∧ t.strict = s.strict ∧ SameResults s t) ∧
    (∀ (i : Instr) (s : State), i.isCommand = false → s.cfg.bufCap < (encode i).bytes.length →
      ∃ r, exec i s = .refused r) ∧
    ∀ (c : Config) (u f x : Byte) (a v k : Reg16) (vs : List Reg16), configWf c = true → vs.length ≤ 127 →
      (encode (.frameReadReq u a v k)).bytes.length ≤ c.bufCap ∧
      (encode (.frameWriteSingleReq u a v k)).bytes.length ≤ c.bufCap ∧
      (encode (.frameWriteMultipleReq u a vs k)).bytes.length ≤ c.bufCap ∧
      (encode (.frameNormalRsp u f vs [] k)).bytes.length ≤ c.bufCap ∧
      (encode (.frameExceptionRsp u f x [] k)).bytes.length ≤ c.bufCap

/-- The five frame layouts, byte by byte. Rests on 30_encoding.md Part A. -/
def Obligations.FrameLayoutsByteByByte : Prop :=
  ∀ (u f x : Byte) (a v c : Reg16) (vs : List Reg16) (extra : List Byte),
      encode (.frameReadReq u a v c) = .req [u, 0x03#8, hi8 a, lo8 a, hi8 v, lo8 v, lo8 c, hi8 c] ∧
      encode (.frameWriteSingleReq u a v c) = .req [u, 0x06#8, hi8 a, lo8 a, hi8 v, lo8 v, lo8 c, hi8 c] ∧
      encode (.frameWriteMultipleReq u a vs c) =
        .req ([u, 0x10#8, hi8 a, lo8 a, hi8 (BitVec.ofNat 16 vs.length), lo8 (BitVec.ofNat 16 vs.length),
            BitVec.ofNat 8 (2 * vs.length)] ++ vs.flatMap (fun v => [hi8 v, lo8 v]) ++ [lo8 c, hi8 c]) ∧
      encode (.frameNormalRsp u f vs extra c) =
        .rsp ([u, f, BitVec.ofNat 8 (2 * vs.length)] ++ vs.flatMap (fun v => [hi8 v, lo8 v]) ++ extra ++ [lo8 c, hi8 c]) ∧
      encode (.frameExceptionRsp u f x extra c) = .rsp ([u, f, x] ++ extra ++ [lo8 c, hi8 c])

/-- A request frame that has arrived is parsed by DEC.REQ into its own fields. Rests on 30_encoding.md Part A,
42_frame_decoder.md section 2. That executing a frame row is the arrival of its bytes is the choice of log 4. -/
def Obligations.ArrivedRequestsAreParsed : Prop :=
  ∀ (s t : State) (u : Byte) (a v c : Reg16) (vs : List Reg16), s.strict = false →
      (exec (.frameReadReq u a v c) s = .next t → ∃ t', exec .decReq t = .next t' ∧ t'.status.err = .ok ∧
        t'.q = { unit := u, fc := 3, addr := a, qty := v } ∧
        (t'.status.crcok = true ↔ c = crc16 [u, 3, hi8 a, lo8 a, hi8 v, lo8 v])) ∧
      (exec (.frameWriteSingleReq u a v c) s = .next t → ∃ t', exec .decReq t = .next t' ∧ t'.status.err = .ok ∧
        t'.q = { unit := u, fc := 6, addr := a, qty := v } ∧
        (t'.status.crcok = true ↔ c = crc16 [u, 6, hi8 a, lo8 a, hi8 v, lo8 v])) ∧
      (vs.length ≤ 127 → exec (.frameWriteMultipleReq u a vs c) s = .next t →
        ∃ t', exec .decReq t = .next t' ∧ t'.status.err = .ok ∧
        t'.q = { unit := u, fc := 16, addr := a, qty := BitVec.ofNat 16 vs.length } ∧
        (t'.status.crcok = true ↔ c = crc16 (writeMultipleBody u a vs)))

/-- A response frame that has arrived is parsed by DEC.RSP into its own fields and registers. Rests on 30_encoding.md
Part A, 42_frame_decoder.md sections 2 and 3. That executing a frame row is the arrival of its bytes is the choice
of log 4. -/
def Obligations.ArrivedResponsesAreParsed : Prop :=
  ∀ (s t : State) (u f x : Byte) (c : Reg16) (rs : List Reg16) (extra : List Byte), s.strict = false →
      ((Instr.frameNormalRsp u f rs extra c).wf = true → exec (.frameNormalRsp u f rs extra c) s = .next t →
        ∃ t', exec .decRsp t = .next t' ∧ t'.status.err = .ok ∧ t'.status.rav = true ∧ t'.p.unit = u ∧ t'.p.fc = f ∧
          t'.p.bc.toNat = 2 * rs.length ∧ t'.p.ralen.toNat = rs.length ∧
          (∀ i r, rs[i]? = some r → raReg t' i = r) ∧
          (t'.status.crcok = true ↔ c = crc16 ([u, f, BitVec.ofNat 8 (2 * rs.length)] ++ beBytes rs ++ extra))) ∧
      ((Instr.frameExceptionRsp u f x extra c).wf = true → exec (.frameExceptionRsp u f x extra c) s = .next t →
        ∃ t', exec .decRsp t = .next t' ∧ t'.status.err = .modbusException ∧ t'.status.isexc = true ∧
          t'.p.unit = u ∧ t'.p.fc = f ∧ t'.p.exc = x ∧
          (t'.status.crcok = true ↔ c = crc16 ([u, f, x] ++ extra)))

/-- LDIB, LDVB and OB2IB, performed action by action, have the effect of the whole. Rests on 30_encoding.md Part B
(pseudo-instructions), 44_system.md. That executing a frame row is the arrival of its bytes is the choice of log
4. The host stream and the cleared delivered value are logs 1 and 10. -/
def Obligations.PseudoInstructionsAreTheirExpansions : Prop :=
  ∀ s : State, configWf s.cfg = true →
      (∀ bytes : List Byte, bytes.length ≤ s.cfg.bufCap →
        runHost s (expand s (.ldib bytes)) = .next (loadInput bytes (withActions [] s))) ∧
      (∀ i : Instr, i.isCommand = false → (encode i).bytes.length ≤ s.cfg.bufCap →
        runHost s (expand s (.ldib (encode i).bytes)) = exec i (withActions [] s)) ∧
      (∀ vs : List Reg16, vs.length ≤ 127 → ∃ t, runHost s (expand s (.ldvb vs)) = .next t ∧
        t.vb.len.toNat = vs.length ∧ vbSeq t vs.length = vs ∧ (∀ i, vs.length ≤ i → vbCell t i = vbCell s i) ∧
        t = { withActions [] s with vb := t.vb }) ∧
      (s.ob.len.toNat ≤ 263 →
        runHost s (expand s .ob2ib) = .next (loadInput (obSeq s s.ob.len.toNat) (withActions [] s)))

/-- The invariant holds at reset, under every well-formed configuration. Rests on 70_reset_and_hazards.md section 1,
10_state.md section 7. -/
def Obligations.InvariantHoldsAtReset : Prop :=
  (∀ c : Config, configWf c = true → Invariant (State.resetWith c)) ∧ Invariant State.reset

/-- Every step keeps the invariant. Rests on 10_state.md sections 4 and 5, 20_memory.md section 1. -/
def Obligations.EveryStepKeepsTheInvariant : Prop :=
  ∀ s t : State, Invariant s → step s = .next t → Invariant t

/-- The configuration is an argument of the block's step: no action changes it, and no action reads the host's stream.
Rests on 10_state.md section 6, 20_memory.md section 5, 44_system.md (Agents). That State carries the argument
beside the state of the block is log 2; the stream and the delivered value are logs 1 and 10. -/
def Obligations.ConfigurationNeverChanges : Prop :=
  (∀ s t : State, step s = .next t → t.cfg = s.cfg) ∧
    (∀ (a : HostAction) (s t : State), perform a s = .next t → t.cfg = s.cfg ∧ t.pending = s.pending) ∧
    ∀ (s : State) (a : HostAction) (rest : List HostAction), configWf s.cfg = true → s.pending = a :: rest →
      step s = perform a (takeAction s rest) ∧
      ∀ t, perform a (takeAction s rest) = .next t ↔ ∃ b v, blockStep s.cfg s.toBlockState a = .next (b, v) ∧
        t = { toBlockState := b, cfg := s.cfg, pending := rest, delivered := v }

/-- Each piece of state is written only by the commands the overview names, and IB and IBLEN also by frame rows (log
4). Rests on 10_state.md section 1, 70_reset_and_hazards.md section 3. The clauses on frame rows are the choice of
log 4: the overview has the host write IB and IBLEN. -/
def Obligations.EachResultHasItsWriters : Prop :=
  ∀ (i : Instr) (s t : State), exec i s = .next t →
      SameHost s t ∧
      (i ≠ .sreset → t.op = s.op ∧ t.vb.len = s.vb.len ∧ (∀ j, vbCell t j = vbCell s j) ∧ t.strict = s.strict) ∧
      (i ≠ .sreset → i.isCommand = true → SameInputs s t) ∧
      (i ≠ .sreset → i ≠ .crcInit → i ≠ .crcBuf → (∀ b, i ≠ .crcByte b) → SameChecksum s t) ∧
      (i ≠ .sreset → i ≠ .encRd → i ≠ .encWs → i ≠ .encWm → SameOutput s t) ∧
      (i ≠ .sreset → i ≠ .decReq → SameRequest s t) ∧
      (i ≠ .sreset → i ≠ .decRsp →
        SameResponse s t ∧ t.status.isexc = s.status.isexc ∧ t.status.rav = s.status.rav) ∧
      (i ≠ .sreset → i ≠ .decReq → i ≠ .decRsp → t.status.crcok = s.status.crcok) ∧
      (i ≠ .sreset → extOperands i = none → SameExtraction s t) ∧
      (i ≠ .sreset → (∀ fc, i ≠ .rdeDecode fc) → SameBlock s t) ∧
      (i.isCommand = false → t.status = s.status)

/-- In every state every command answers a next state whose ERR is one of the outcomes listed for it. Rests on
60_exceptions.md sections 1 and 2. -/
def Obligations.EveryCommandCompletesWithAListedOutcome : Prop :=
  (∀ (i : Instr) (s : State), i.isCommand = true → configWf s.cfg = true →
      ∃ t, exec i s = .next t ∧ t.status.err ∈ outcomes i) ∧
    [ErrCode.ok, .malformedRequest, .malformedResponse, .inconsistentByteCount, .modbusException, .crcMismatch,
      .illegalCommand, .bufferRange, .encodeRange, .decodeBlocked, .reservedScale, .bitRange, .indexRange].map errCode =
      [0x00#8, 0x01#8, 0x02#8, 0x03#8, 0x04#8, 0x05#8, 0x10#8, 0x11#8, 0x12#8, 0x13#8, 0x14#8, 0x15#8, 0x16#8]

/-- The hex string of a byte sequence reads back as that sequence. Rests on 00_scope.md section 5. -/
def Obligations.HexStringsRoundTrip : Prop :=
  (∀ bs : List Byte, hexBytes (bytesHex bs) = some bs ∧ (bytesHex bs).length = 2 * bs.length) ∧
    hexBytes ['0', '1', '8', '3', '0', '2'] = some [1, 131, 2]
end

