-- ==== Sys2Proof/Laws/Memory.lean ====
section
/-! SUPPORT. The laws of the buffer spaces: reading after writing, and that every write keeps the canonical form and
the space's bound. The first group holds of every list, canonical or not. -/

namespace Sys2Proof.Laws

open Sys2Proof.Machine

variable {α : Type} {zero : α}

theorem read_erase_same (m : List (Nat × α)) (i : Nat) : Memory.read zero (Memory.erase m i) i = zero := by
  induction m with
  | nil => rfl
  | cons c m ih =>
    obtain ⟨j, w⟩ := c
    by_cases h : j = i
    · simpa [Memory.erase, h] using ih
    · simpa [Memory.erase, Memory.read, h] using ih

theorem read_erase_other (m : List (Nat × α)) {i k : Nat} (hk : k ≠ i) :
    Memory.read zero (Memory.erase m i) k = Memory.read zero m k := by
  induction m with
  | nil => rfl
  | cons c m ih =>
    obtain ⟨j, w⟩ := c
    by_cases h : j = i
    · have hj : ¬ i = k := fun e => hk e.symm
      simpa [Memory.erase, Memory.read, h, hj] using ih
    · by_cases hj : j = k
      · simp [Memory.erase, Memory.read, hj, hk]
      · simpa [Memory.erase, Memory.read, h, hj] using ih

theorem read_insert_same (m : List (Nat × α)) (i : Nat) (v : α) (h : ∀ c ∈ m, c.1 ≠ i) :
    Memory.read zero (Memory.insert m i v) i = v := by
  induction m with
  | nil => simp [Memory.insert, Memory.read]
  | cons c m ih =>
    obtain ⟨j, w⟩ := c
    have hj : j ≠ i := h (j, w) (by simp)
    by_cases hlt : i < j
    · simp [Memory.insert, Memory.read, hlt]
    · simpa [Memory.insert, Memory.read, hlt, hj] using ih fun c hc => h c (by simp [hc])

theorem read_insert_other (m : List (Nat × α)) {i k : Nat} (v : α) (hk : k ≠ i) :
    Memory.read zero (Memory.insert m i v) k = Memory.read zero m k := by
  induction m with
  | nil => simp [Memory.insert, Memory.read, hk.symm]
  | cons c m ih =>
    obtain ⟨j, w⟩ := c
    by_cases hlt : i < j
    · simp [Memory.insert, Memory.read, hlt, hk.symm]
    · simp only [Memory.insert, hlt, if_false, Memory.read, ih]

theorem mem_erase_ne {m : List (Nat × α)} {i : Nat} {c : Nat × α} (h : c ∈ Memory.erase m i) : c.1 ≠ i := by
  simpa using (List.mem_filter.mp h).2

/-- A write gives the cell its value and leaves every other cell alone. -/
theorem read_write [DecidableEq α] (m : List (Nat × α)) (i k : Nat) (v : α) :
    Memory.read zero (Memory.write zero m i v) k = if k = i then v else Memory.read zero m k := by
  unfold Memory.write
  by_cases hv : v = zero
  · by_cases hk : k = i
    · subst hk; simp [hv, read_erase_same]
    · simp [hv, hk, read_erase_other m hk]
  · by_cases hk : k = i
    · subst hk; simp [hv, read_insert_same _ _ v fun c hc => mem_erase_ne hc]
    · simp [hv, hk, read_insert_other _ v hk, read_erase_other m hk]

/-- A sequence written from cell `i` on is read back there and nowhere else. -/
theorem read_writeSeq [DecidableEq α] (m : List (Nat × α)) (i : Nat) (vs : List α) (k : Nat) :
    Memory.read zero (Memory.writeSeq zero m i vs) k
      = if h : i ≤ k ∧ k < i + vs.length then vs[k - i] else Memory.read zero m k := by
  induction vs generalizing m i with
  | nil => simp [Memory.writeSeq]
  | cons v vs ih =>
    rw [Memory.writeSeq, ih]
    by_cases hk : k = i
    · subst hk; simp [read_write]
    · by_cases h : i ≤ k ∧ k < i + (vs.length + 1)
      · obtain ⟨d, rfl⟩ : ∃ d, k = i + 1 + d := ⟨k - i - 1, by omega⟩
        have hd : d < vs.length := by omega
        have e : i + 1 + d - i = d + 1 := by omega
        have e' : i + 1 + d - (i + 1) = d := by omega
        have p1 : i + 1 ≤ i + 1 + d ∧ i + 1 + d < i + 1 + vs.length := by omega
        simp only [List.length_cons, dif_pos h, dif_pos p1, e, e', List.getElem_cons_succ]
      · have p1 : ¬ (i + 1 ≤ k ∧ k < i + 1 + vs.length) := by omega
        simp only [List.length_cons, dif_neg h, dif_neg p1, read_write, if_neg hk]

@[simp] theorem length_readSeq (m : List (Nat × α)) (i n : Nat) : (Memory.readSeq zero m i n).length = n := by
  induction n generalizing i with
  | zero => rfl
  | succ n ih => simp [Memory.readSeq, ih]

theorem getElem_readSeq (m : List (Nat × α)) (i n j : Nat) (h : j < (Memory.readSeq zero m i n).length) :
    (Memory.readSeq zero m i n)[j] = Memory.read zero m (i + j) := by
  induction n generalizing i j with
  | zero => simp at h
  | succ n ih =>
    cases j with
    | zero => simp [Memory.readSeq]
    | succ j => simp [Memory.readSeq, ih, Nat.add_assoc, Nat.add_comm 1 j]

/-- A sequence read is the list of its cells. -/
theorem readSeq_eq_map (m : List (Nat × α)) (n : Nat) :
    Memory.readSeq zero m 0 n = (List.range n).map (Memory.read zero m) := by
  apply List.ext_getElem
  · simp
  · intro j h1 h2
    rw [getElem_readSeq]
    simp

/-- A sequence written from cell 0 on is what is read back. -/
theorem readSeq_writeSeq [DecidableEq α] (m : List (Nat × α)) (vs : List α) :
    Memory.readSeq zero (Memory.writeSeq zero m 0 vs) 0 vs.length = vs := by
  apply List.ext_getElem
  · simp
  · intro j h1 h2
    rw [getElem_readSeq, read_writeSeq]
    simp [h2]

/-! ### The canonical form -/

theorem wfFrom_mono [DecidableEq α] {lo lo' : Nat} {m : List (Nat × α)} (h : lo' ≤ lo) (hw : Memory.wfFrom zero lo m = true) :
    Memory.wfFrom zero lo' m = true := by
  cases m with
  | nil => rfl
  | cons c m =>
    simp only [Memory.wfFrom, Bool.and_eq_true, decide_eq_true_eq] at hw ⊢
    exact ⟨⟨by omega, hw.1.2⟩, hw.2⟩

theorem wfFrom_erase [DecidableEq α] {lo : Nat} {m : List (Nat × α)} (i : Nat) (hw : Memory.wfFrom zero lo m = true) :
    Memory.wfFrom zero lo (Memory.erase m i) = true := by
  induction m generalizing lo with
  | nil => rfl
  | cons c m ih =>
    obtain ⟨j, w⟩ := c
    simp only [Memory.wfFrom, Bool.and_eq_true, decide_eq_true_eq] at hw
    by_cases h : j = i
    · have := wfFrom_mono (by omega : lo ≤ j + 1) (ih hw.2)
      simpa [Memory.erase, h] using this
    · have := ih hw.2
      simp only [Memory.erase, ne_eq, decide_not] at this
      simp [Memory.erase, h, Memory.wfFrom, hw.1.1, hw.1.2, this]

theorem wfFrom_insert [DecidableEq α] {lo i : Nat} {m : List (Nat × α)} {v : α} (hlo : lo ≤ i) (hv : v ≠ zero)
    (hi : ∀ c ∈ m, c.1 ≠ i) (hw : Memory.wfFrom zero lo m = true) :
    Memory.wfFrom zero lo (Memory.insert m i v) = true := by
  induction m generalizing lo with
  | nil => simp [Memory.insert, Memory.wfFrom, hlo, hv]
  | cons c m ih =>
    obtain ⟨j, w⟩ := c
    have hj : j ≠ i := hi (j, w) (by simp)
    simp only [Memory.wfFrom, Bool.and_eq_true, decide_eq_true_eq] at hw
    by_cases h : i < j
    · simp [Memory.insert, h, Memory.wfFrom, hlo, hv, hw.1.2, hw.2]
    · have := ih (lo := j + 1) (by omega) (fun c hc => hi c (by simp [hc])) hw.2
      simp [Memory.insert, h, Memory.wfFrom, hw.1.1, hw.1.2, this]

/-- Every write keeps the canonical form. -/
theorem wf_write [DecidableEq α] {m : List (Nat × α)} (i : Nat) (v : α) (hw : Memory.wf zero m = true) :
    Memory.wf zero (Memory.write zero m i v) = true := by
  unfold Memory.write
  split
  · exact wfFrom_erase i hw
  · rename_i hv
    exact wfFrom_insert (Nat.zero_le i) hv (fun c hc => mem_erase_ne hc) (wfFrom_erase i hw)

/-- Every written sequence keeps the canonical form. -/
theorem wf_writeSeq [DecidableEq α] {m : List (Nat × α)} (i : Nat) (vs : List α) (hw : Memory.wf zero m = true) :
    Memory.wf zero (Memory.writeSeq zero m i vs) = true := by
  induction vs generalizing m i with
  | nil => exact hw
  | cons v vs ih => exact ih (i + 1) (wf_write i v hw)

/-! ### The bound of a space -/

theorem below_insert {cap i : Nat} {m : List (Nat × α)} {v : α} (hi : i < cap) (hb : Memory.below cap m = true) :
    Memory.below cap (Memory.insert m i v) = true := by
  induction m with
  | nil => simp [Memory.insert, Memory.below, hi]
  | cons c m ih =>
    obtain ⟨j, w⟩ := c
    simp only [Memory.below, List.all_cons, Bool.and_eq_true, decide_eq_true_eq] at hb
    by_cases h : i < j
    · simp only [Memory.insert, h, if_true, Memory.below, List.all_cons, Bool.and_eq_true, decide_eq_true_eq]
      exact ⟨hi, hb.1, hb.2⟩
    · have := ih hb.2
      simp only [Memory.below] at this
      simp [Memory.insert, h, Memory.below, hb.1, this]

theorem below_erase {cap : Nat} {m : List (Nat × α)} (i : Nat) (hb : Memory.below cap m = true) :
    Memory.below cap (Memory.erase m i) = true := by
  simp only [Memory.below, List.all_eq_true, Memory.erase] at *
  exact fun c hc => hb c (List.mem_filter.mp hc).1

/-- A write below the bound keeps it. -/
theorem below_write [DecidableEq α] {cap i : Nat} {m : List (Nat × α)} {v : α} (hi : i < cap) (hb : Memory.below cap m = true) :
    Memory.below cap (Memory.write zero m i v) = true := by
  unfold Memory.write
  split
  · exact below_erase i hb
  · exact below_insert hi (below_erase i hb)

/-- A sequence written below the bound keeps it. -/
theorem below_writeSeq [DecidableEq α] {cap i : Nat} {m : List (Nat × α)} {vs : List α} (hi : i + vs.length ≤ cap)
    (hb : Memory.below cap m = true) : Memory.below cap (Memory.writeSeq zero m i vs) = true := by
  induction vs generalizing m i with
  | nil => exact hb
  | cons v vs ih =>
    simp only [List.length_cons] at hi
    exact ih (by omega) (below_write (by omega) hb)

end Sys2Proof.Laws
end

