-- ==== Sys2Proof/Laws/State.lean ====
section
/-! SUPPORT. For each update of the state, what it makes of each field, so that no later proof unfolds an update. -/

namespace Sys2Proof.Laws

open Sys2Proof.Machine

variable (s : State)

/-! ### setErr -/

@[simp] theorem setErr_cfg (e : ErrCode) : (setErr e s).cfg = s.cfg := rfl
@[simp] theorem setErr_op (e : ErrCode) : (setErr e s).op = s.op := rfl
@[simp] theorem setErr_ib (e : ErrCode) : (setErr e s).ib = s.ib := rfl
@[simp] theorem setErr_vb (e : ErrCode) : (setErr e s).vb = s.vb := rfl
@[simp] theorem setErr_strict (e : ErrCode) : (setErr e s).strict = s.strict := rfl
@[simp] theorem setErr_crcacc (e : ErrCode) : (setErr e s).crcacc = s.crcacc := rfl
@[simp] theorem setErr_ob (e : ErrCode) : (setErr e s).ob = s.ob := rfl
@[simp] theorem setErr_q (e : ErrCode) : (setErr e s).q = s.q := rfl
@[simp] theorem setErr_p (e : ErrCode) : (setErr e s).p = s.p := rfl
@[simp] theorem setErr_xr (e : ErrCode) : (setErr e s).xr = s.xr := rfl
@[simp] theorem setErr_db (e : ErrCode) : (setErr e s).db = s.db := rfl
@[simp] theorem setErr_status (e : ErrCode) : (setErr e s).status = { s.status with err := e } := rfl
@[simp] theorem setErr_pending (e : ErrCode) : (setErr e s).pending = s.pending := rfl
@[simp] theorem setErr_delivered (e : ErrCode) : (setErr e s).delivered = s.delivered := rfl

/-! ### clearCrc -/

@[simp] theorem clearCrc_cfg : (clearCrc s).cfg = s.cfg := rfl
@[simp] theorem clearCrc_op : (clearCrc s).op = s.op := rfl
@[simp] theorem clearCrc_ib : (clearCrc s).ib = s.ib := rfl
@[simp] theorem clearCrc_vb : (clearCrc s).vb = s.vb := rfl
@[simp] theorem clearCrc_strict : (clearCrc s).strict = s.strict := rfl
@[simp] theorem clearCrc_crcacc : (clearCrc s).crcacc = 0xFFFF#16 := rfl
@[simp] theorem clearCrc_ob : (clearCrc s).ob = s.ob := rfl
@[simp] theorem clearCrc_q : (clearCrc s).q = s.q := rfl
@[simp] theorem clearCrc_p : (clearCrc s).p = s.p := rfl
@[simp] theorem clearCrc_xr : (clearCrc s).xr = s.xr := rfl
@[simp] theorem clearCrc_db : (clearCrc s).db = s.db := rfl
@[simp] theorem clearCrc_status : (clearCrc s).status = s.status := rfl
@[simp] theorem clearCrc_pending : (clearCrc s).pending = s.pending := rfl
@[simp] theorem clearCrc_delivered : (clearCrc s).delivered = s.delivered := rfl

/-! ### clearOb -/

@[simp] theorem clearOb_cfg : (clearOb s).cfg = s.cfg := rfl
@[simp] theorem clearOb_op : (clearOb s).op = s.op := rfl
@[simp] theorem clearOb_ib : (clearOb s).ib = s.ib := rfl
@[simp] theorem clearOb_vb : (clearOb s).vb = s.vb := rfl
@[simp] theorem clearOb_strict : (clearOb s).strict = s.strict := rfl
@[simp] theorem clearOb_crcacc : (clearOb s).crcacc = s.crcacc := rfl
@[simp] theorem clearOb_ob : (clearOb s).ob = { s.ob with len := 0 } := rfl
@[simp] theorem clearOb_q : (clearOb s).q = s.q := rfl
@[simp] theorem clearOb_p : (clearOb s).p = s.p := rfl
@[simp] theorem clearOb_xr : (clearOb s).xr = s.xr := rfl
@[simp] theorem clearOb_db : (clearOb s).db = s.db := rfl
@[simp] theorem clearOb_status : (clearOb s).status = s.status := rfl
@[simp] theorem clearOb_pending : (clearOb s).pending = s.pending := rfl
@[simp] theorem clearOb_delivered : (clearOb s).delivered = s.delivered := rfl

/-! ### clearReq -/

@[simp] theorem clearReq_cfg : (clearReq s).cfg = s.cfg := rfl
@[simp] theorem clearReq_op : (clearReq s).op = s.op := rfl
@[simp] theorem clearReq_ib : (clearReq s).ib = s.ib := rfl
@[simp] theorem clearReq_vb : (clearReq s).vb = s.vb := rfl
@[simp] theorem clearReq_strict : (clearReq s).strict = s.strict := rfl
@[simp] theorem clearReq_crcacc : (clearReq s).crcacc = s.crcacc := rfl
@[simp] theorem clearReq_ob : (clearReq s).ob = s.ob := rfl
@[simp] theorem clearReq_q : (clearReq s).q = { unit := 0, fc := 0, addr := 0, qty := 0 } := rfl
@[simp] theorem clearReq_p : (clearReq s).p = s.p := rfl
@[simp] theorem clearReq_xr : (clearReq s).xr = s.xr := rfl
@[simp] theorem clearReq_db : (clearReq s).db = s.db := rfl
@[simp] theorem clearReq_status : (clearReq s).status = { s.status with crcok := false } := rfl
@[simp] theorem clearReq_pending : (clearReq s).pending = s.pending := rfl
@[simp] theorem clearReq_delivered : (clearReq s).delivered = s.delivered := rfl

/-! ### clearRsp -/

@[simp] theorem clearRsp_cfg : (clearRsp s).cfg = s.cfg := rfl
@[simp] theorem clearRsp_op : (clearRsp s).op = s.op := rfl
@[simp] theorem clearRsp_ib : (clearRsp s).ib = s.ib := rfl
@[simp] theorem clearRsp_vb : (clearRsp s).vb = s.vb := rfl
@[simp] theorem clearRsp_strict : (clearRsp s).strict = s.strict := rfl
@[simp] theorem clearRsp_crcacc : (clearRsp s).crcacc = s.crcacc := rfl
@[simp] theorem clearRsp_ob : (clearRsp s).ob = s.ob := rfl
@[simp] theorem clearRsp_q : (clearRsp s).q = s.q := rfl
@[simp] theorem clearRsp_p : (clearRsp s).p = { s.p with unit := 0, fc := 0, exc := 0, bc := 0, ralen := 0 } := rfl
@[simp] theorem clearRsp_xr : (clearRsp s).xr = s.xr := rfl
@[simp] theorem clearRsp_db : (clearRsp s).db = s.db := rfl
@[simp] theorem clearRsp_status :
    (clearRsp s).status =
      { s.status with isexc := false, crcok := false, rav := false } := rfl
@[simp] theorem clearRsp_pending : (clearRsp s).pending = s.pending := rfl
@[simp] theorem clearRsp_delivered : (clearRsp s).delivered = s.delivered := rfl

/-! ### clearXr -/

@[simp] theorem clearXr_cfg : (clearXr s).cfg = s.cfg := rfl
@[simp] theorem clearXr_op : (clearXr s).op = s.op := rfl
@[simp] theorem clearXr_ib : (clearXr s).ib = s.ib := rfl
@[simp] theorem clearXr_vb : (clearXr s).vb = s.vb := rfl
@[simp] theorem clearXr_strict : (clearXr s).strict = s.strict := rfl
@[simp] theorem clearXr_crcacc : (clearXr s).crcacc = s.crcacc := rfl
@[simp] theorem clearXr_ob : (clearXr s).ob = s.ob := rfl
@[simp] theorem clearXr_q : (clearXr s).q = s.q := rfl
@[simp] theorem clearXr_p : (clearXr s).p = s.p := rfl
@[simp] theorem clearXr_xr : (clearXr s).xr = { t := .int, m := 0 } := rfl
@[simp] theorem clearXr_db : (clearXr s).db = s.db := rfl
@[simp] theorem clearXr_status : (clearXr s).status = s.status := rfl
@[simp] theorem clearXr_pending : (clearXr s).pending = s.pending := rfl
@[simp] theorem clearXr_delivered : (clearXr s).delivered = s.delivered := rfl

/-! ### clearDb -/

@[simp] theorem clearDb_cfg : (clearDb s).cfg = s.cfg := rfl
@[simp] theorem clearDb_op : (clearDb s).op = s.op := rfl
@[simp] theorem clearDb_ib : (clearDb s).ib = s.ib := rfl
@[simp] theorem clearDb_vb : (clearDb s).vb = s.vb := rfl
@[simp] theorem clearDb_strict : (clearDb s).strict = s.strict := rfl
@[simp] theorem clearDb_crcacc : (clearDb s).crcacc = s.crcacc := rfl
@[simp] theorem clearDb_ob : (clearDb s).ob = s.ob := rfl
@[simp] theorem clearDb_q : (clearDb s).q = s.q := rfl
@[simp] theorem clearDb_p : (clearDb s).p = s.p := rfl
@[simp] theorem clearDb_xr : (clearDb s).xr = s.xr := rfl
@[simp] theorem clearDb_db : (clearDb s).db = { s.db with id := 0, fc := 0, addr := 0, folen := 0 } := rfl
@[simp] theorem clearDb_status : (clearDb s).status = s.status := rfl
@[simp] theorem clearDb_pending : (clearDb s).pending = s.pending := rfl
@[simp] theorem clearDb_delivered : (clearDb s).delivered = s.delivered := rfl

/-! ### storeFrame -/

@[simp] theorem storeFrame_cfg (f : List Byte) : (storeFrame f s).cfg = s.cfg := rfl
@[simp] theorem storeFrame_op (f : List Byte) : (storeFrame f s).op = s.op := rfl
@[simp] theorem storeFrame_ib (f : List Byte) : (storeFrame f s).ib = s.ib := rfl
@[simp] theorem storeFrame_vb (f : List Byte) : (storeFrame f s).vb = s.vb := rfl
@[simp] theorem storeFrame_strict (f : List Byte) : (storeFrame f s).strict = s.strict := rfl
@[simp] theorem storeFrame_crcacc (f : List Byte) : (storeFrame f s).crcacc = s.crcacc := rfl
@[simp] theorem storeFrame_ob (f : List Byte) :
    (storeFrame f s).ob =
      { cells := Memory.writeSeq 0 s.ob.cells 0 f, len := BitVec.ofNat 16 f.length } := rfl
@[simp] theorem storeFrame_q (f : List Byte) : (storeFrame f s).q = s.q := rfl
@[simp] theorem storeFrame_p (f : List Byte) : (storeFrame f s).p = s.p := rfl
@[simp] theorem storeFrame_xr (f : List Byte) : (storeFrame f s).xr = s.xr := rfl
@[simp] theorem storeFrame_db (f : List Byte) : (storeFrame f s).db = s.db := rfl
@[simp] theorem storeFrame_status (f : List Byte) : (storeFrame f s).status = s.status := rfl
@[simp] theorem storeFrame_pending (f : List Byte) : (storeFrame f s).pending = s.pending := rfl
@[simp] theorem storeFrame_delivered (f : List Byte) : (storeFrame f s).delivered = s.delivered := rfl

/-! ### loadInput -/

@[simp] theorem loadInput_cfg (f : List Byte) : (loadInput f s).cfg = s.cfg := rfl
@[simp] theorem loadInput_op (f : List Byte) : (loadInput f s).op = s.op := rfl
@[simp] theorem loadInput_ib (f : List Byte) :
    (loadInput f s).ib =
      { cells := Memory.writeSeq 0 s.ib.cells 0 f, len := BitVec.ofNat 16 f.length } := rfl
@[simp] theorem loadInput_vb (f : List Byte) : (loadInput f s).vb = s.vb := rfl
@[simp] theorem loadInput_strict (f : List Byte) : (loadInput f s).strict = s.strict := rfl
@[simp] theorem loadInput_crcacc (f : List Byte) : (loadInput f s).crcacc = s.crcacc := rfl
@[simp] theorem loadInput_ob (f : List Byte) : (loadInput f s).ob = s.ob := rfl
@[simp] theorem loadInput_q (f : List Byte) : (loadInput f s).q = s.q := rfl
@[simp] theorem loadInput_p (f : List Byte) : (loadInput f s).p = s.p := rfl
@[simp] theorem loadInput_xr (f : List Byte) : (loadInput f s).xr = s.xr := rfl
@[simp] theorem loadInput_db (f : List Byte) : (loadInput f s).db = s.db := rfl
@[simp] theorem loadInput_status (f : List Byte) : (loadInput f s).status = s.status := rfl
@[simp] theorem loadInput_pending (f : List Byte) : (loadInput f s).pending = s.pending := rfl
@[simp] theorem loadInput_delivered (f : List Byte) : (loadInput f s).delivered = s.delivered := rfl

/-! ### acceptRequest -/

@[simp] theorem acceptRequest_cfg : (acceptRequest s).cfg = s.cfg := rfl
@[simp] theorem acceptRequest_op : (acceptRequest s).op = s.op := rfl
@[simp] theorem acceptRequest_ib : (acceptRequest s).ib = s.ib := rfl
@[simp] theorem acceptRequest_vb : (acceptRequest s).vb = s.vb := rfl
@[simp] theorem acceptRequest_strict : (acceptRequest s).strict = s.strict := rfl
@[simp] theorem acceptRequest_crcacc : (acceptRequest s).crcacc = s.crcacc := rfl
@[simp] theorem acceptRequest_ob : (acceptRequest s).ob = s.ob := rfl
@[simp] theorem acceptRequest_q :
    (acceptRequest s).q =
      { unit := ibByte s 0, fc := ibByte s 1, addr := ibField s 2, qty := ibField s 4 } := rfl
@[simp] theorem acceptRequest_p : (acceptRequest s).p = s.p := rfl
@[simp] theorem acceptRequest_xr : (acceptRequest s).xr = s.xr := rfl
@[simp] theorem acceptRequest_db : (acceptRequest s).db = s.db := rfl
@[simp] theorem acceptRequest_status :
    (acceptRequest s).status =
      { s.status with crcok := crcOk s s.ib.len.toNat } := rfl
@[simp] theorem acceptRequest_pending : (acceptRequest s).pending = s.pending := rfl
@[simp] theorem acceptRequest_delivered : (acceptRequest s).delivered = s.delivered := rfl

/-! ### acceptException -/

@[simp] theorem acceptException_cfg : (acceptException s).cfg = s.cfg := rfl
@[simp] theorem acceptException_op : (acceptException s).op = s.op := rfl
@[simp] theorem acceptException_ib : (acceptException s).ib = s.ib := rfl
@[simp] theorem acceptException_vb : (acceptException s).vb = s.vb := rfl
@[simp] theorem acceptException_strict : (acceptException s).strict = s.strict := rfl
@[simp] theorem acceptException_crcacc : (acceptException s).crcacc = s.crcacc := rfl
@[simp] theorem acceptException_ob : (acceptException s).ob = s.ob := rfl
@[simp] theorem acceptException_q : (acceptException s).q = s.q := rfl
@[simp] theorem acceptException_p :
    (acceptException s).p =
      { s.p with unit := ibByte s 0, fc := ibByte s 1, exc := ibByte s 2, bc := 0, ralen := 0 } := rfl
@[simp] theorem acceptException_xr : (acceptException s).xr = s.xr := rfl
@[simp] theorem acceptException_db : (acceptException s).db = s.db := rfl
@[simp] theorem acceptException_status :
    (acceptException s).status =
      { s.status with isexc := true, crcok := crcOk s s.ib.len.toNat, rav := false } := rfl
@[simp] theorem acceptException_pending : (acceptException s).pending = s.pending := rfl
@[simp] theorem acceptException_delivered : (acceptException s).delivered = s.delivered := rfl

/-! ### acceptResponse -/

@[simp] theorem acceptResponse_cfg : (acceptResponse s).cfg = s.cfg := rfl
@[simp] theorem acceptResponse_op : (acceptResponse s).op = s.op := rfl
@[simp] theorem acceptResponse_ib : (acceptResponse s).ib = s.ib := rfl
@[simp] theorem acceptResponse_vb : (acceptResponse s).vb = s.vb := rfl
@[simp] theorem acceptResponse_strict : (acceptResponse s).strict = s.strict := rfl
@[simp] theorem acceptResponse_crcacc : (acceptResponse s).crcacc = s.crcacc := rfl
@[simp] theorem acceptResponse_ob : (acceptResponse s).ob = s.ob := rfl
@[simp] theorem acceptResponse_q : (acceptResponse s).q = s.q := rfl
@[simp] theorem acceptResponse_p :
    (acceptResponse s).p =
      { unit := ibByte s 0, fc := ibByte s 1, exc := 0, bc := ibByte s 2,
        ra := Memory.writeSeq 0 s.p.ra 0 (ibRegs s 0 ((ibByte s 2).toNat / 2)),
        ralen := BitVec.ofNat 8 ((ibByte s 2).toNat / 2) } := rfl
@[simp] theorem acceptResponse_xr : (acceptResponse s).xr = s.xr := rfl
@[simp] theorem acceptResponse_db : (acceptResponse s).db = s.db := rfl
@[simp] theorem acceptResponse_status :
    (acceptResponse s).status =
      { s.status with isexc := false, crcok := crcOk s s.ib.len.toNat, rav := true } := rfl
@[simp] theorem acceptResponse_pending : (acceptResponse s).pending = s.pending := rfl
@[simp] theorem acceptResponse_delivered : (acceptResponse s).delivered = s.delivered := rfl

/-! ### storeUnknown -/

@[simp] theorem storeUnknown_cfg (fc : Byte) : (storeUnknown fc s).cfg = s.cfg := rfl
@[simp] theorem storeUnknown_op (fc : Byte) : (storeUnknown fc s).op = s.op := rfl
@[simp] theorem storeUnknown_ib (fc : Byte) : (storeUnknown fc s).ib = s.ib := rfl
@[simp] theorem storeUnknown_vb (fc : Byte) : (storeUnknown fc s).vb = s.vb := rfl
@[simp] theorem storeUnknown_strict (fc : Byte) : (storeUnknown fc s).strict = s.strict := rfl
@[simp] theorem storeUnknown_crcacc (fc : Byte) : (storeUnknown fc s).crcacc = s.crcacc := rfl
@[simp] theorem storeUnknown_ob (fc : Byte) : (storeUnknown fc s).ob = s.ob := rfl
@[simp] theorem storeUnknown_q (fc : Byte) : (storeUnknown fc s).q = s.q := rfl
@[simp] theorem storeUnknown_p (fc : Byte) : (storeUnknown fc s).p = s.p := rfl
@[simp] theorem storeUnknown_xr (fc : Byte) : (storeUnknown fc s).xr = s.xr := rfl
@[simp] theorem storeUnknown_db (fc : Byte) :
    (storeUnknown fc s).db =
      { s.db with id := 0, fc := fc, addr := s.op.addr, folen := 0 } := rfl
@[simp] theorem storeUnknown_status (fc : Byte) : (storeUnknown fc s).status = s.status := rfl
@[simp] theorem storeUnknown_pending (fc : Byte) : (storeUnknown fc s).pending = s.pending := rfl
@[simp] theorem storeUnknown_delivered (fc : Byte) : (storeUnknown fc s).delivered = s.delivered := rfl

/-! ### storeBlock -/

@[simp] theorem storeBlock_cfg (fc : Byte) (r : Rule) (es : List FieldEntry) :
    (storeBlock fc r es s).cfg =
      s.cfg := rfl
@[simp] theorem storeBlock_op (fc : Byte) (r : Rule) (es : List FieldEntry) : (storeBlock fc r es s).op = s.op := rfl
@[simp] theorem storeBlock_ib (fc : Byte) (r : Rule) (es : List FieldEntry) : (storeBlock fc r es s).ib = s.ib := rfl
@[simp] theorem storeBlock_vb (fc : Byte) (r : Rule) (es : List FieldEntry) : (storeBlock fc r es s).vb = s.vb := rfl
@[simp] theorem storeBlock_strict (fc : Byte) (r : Rule) (es : List FieldEntry) :
    (storeBlock fc r es s).strict =
      s.strict := rfl
@[simp] theorem storeBlock_crcacc (fc : Byte) (r : Rule) (es : List FieldEntry) :
    (storeBlock fc r es s).crcacc =
      s.crcacc := rfl
@[simp] theorem storeBlock_ob (fc : Byte) (r : Rule) (es : List FieldEntry) : (storeBlock fc r es s).ob = s.ob := rfl
@[simp] theorem storeBlock_q (fc : Byte) (r : Rule) (es : List FieldEntry) : (storeBlock fc r es s).q = s.q := rfl
@[simp] theorem storeBlock_p (fc : Byte) (r : Rule) (es : List FieldEntry) : (storeBlock fc r es s).p = s.p := rfl
@[simp] theorem storeBlock_xr (fc : Byte) (r : Rule) (es : List FieldEntry) : (storeBlock fc r es s).xr = s.xr := rfl
@[simp] theorem storeBlock_db (fc : Byte) (r : Rule) (es : List FieldEntry) :
    (storeBlock fc r es s).db =
      { id := r.blockId, fc := fc, addr := s.op.addr, fo := Memory.writeSeq zeroEntry s.db.fo 0 es,
        folen := BitVec.ofNat 8 es.length } := rfl
@[simp] theorem storeBlock_status (fc : Byte) (r : Rule) (es : List FieldEntry) :
    (storeBlock fc r es s).status =
      s.status := rfl
@[simp] theorem storeBlock_pending (fc : Byte) (r : Rule) (es : List FieldEntry) :
    (storeBlock fc r es s).pending =
      s.pending := rfl
@[simp] theorem storeBlock_delivered (fc : Byte) (r : Rule) (es : List FieldEntry) :
    (storeBlock fc r es s).delivered =
      s.delivered := rfl

/-! ### takeAction -/

@[simp] theorem takeAction_cfg (rest : List HostAction) : (takeAction s rest).cfg = s.cfg := rfl
@[simp] theorem takeAction_op (rest : List HostAction) : (takeAction s rest).op = s.op := rfl
@[simp] theorem takeAction_ib (rest : List HostAction) : (takeAction s rest).ib = s.ib := rfl
@[simp] theorem takeAction_vb (rest : List HostAction) : (takeAction s rest).vb = s.vb := rfl
@[simp] theorem takeAction_strict (rest : List HostAction) : (takeAction s rest).strict = s.strict := rfl
@[simp] theorem takeAction_crcacc (rest : List HostAction) : (takeAction s rest).crcacc = s.crcacc := rfl
@[simp] theorem takeAction_ob (rest : List HostAction) : (takeAction s rest).ob = s.ob := rfl
@[simp] theorem takeAction_q (rest : List HostAction) : (takeAction s rest).q = s.q := rfl
@[simp] theorem takeAction_p (rest : List HostAction) : (takeAction s rest).p = s.p := rfl
@[simp] theorem takeAction_xr (rest : List HostAction) : (takeAction s rest).xr = s.xr := rfl
@[simp] theorem takeAction_db (rest : List HostAction) : (takeAction s rest).db = s.db := rfl
@[simp] theorem takeAction_status (rest : List HostAction) : (takeAction s rest).status = s.status := rfl
@[simp] theorem takeAction_pending (rest : List HostAction) : (takeAction s rest).pending = rest := rfl
@[simp] theorem takeAction_delivered (rest : List HostAction) : (takeAction s rest).delivered = none := rfl

/-! ### withActions -/

@[simp] theorem withActions_cfg (acts : List HostAction) : (withActions acts s).cfg = s.cfg := rfl
@[simp] theorem withActions_op (acts : List HostAction) : (withActions acts s).op = s.op := rfl
@[simp] theorem withActions_ib (acts : List HostAction) : (withActions acts s).ib = s.ib := rfl
@[simp] theorem withActions_vb (acts : List HostAction) : (withActions acts s).vb = s.vb := rfl
@[simp] theorem withActions_strict (acts : List HostAction) : (withActions acts s).strict = s.strict := rfl
@[simp] theorem withActions_crcacc (acts : List HostAction) : (withActions acts s).crcacc = s.crcacc := rfl
@[simp] theorem withActions_ob (acts : List HostAction) : (withActions acts s).ob = s.ob := rfl
@[simp] theorem withActions_q (acts : List HostAction) : (withActions acts s).q = s.q := rfl
@[simp] theorem withActions_p (acts : List HostAction) : (withActions acts s).p = s.p := rfl
@[simp] theorem withActions_xr (acts : List HostAction) : (withActions acts s).xr = s.xr := rfl
@[simp] theorem withActions_db (acts : List HostAction) : (withActions acts s).db = s.db := rfl
@[simp] theorem withActions_status (acts : List HostAction) : (withActions acts s).status = s.status := rfl
@[simp] theorem withActions_pending (acts : List HostAction) : (withActions acts s).pending = acts := rfl
@[simp] theorem withActions_delivered (acts : List HostAction) : (withActions acts s).delivered = none := rfl

/-! ### pushCode -/

@[simp] theorem pushCode_cfg (c : Code) : (pushCode c s).cfg = s.cfg := rfl
@[simp] theorem pushCode_op (c : Code) : (pushCode c s).op = s.op := rfl
@[simp] theorem pushCode_ib (c : Code) : (pushCode c s).ib = s.ib := rfl
@[simp] theorem pushCode_vb (c : Code) : (pushCode c s).vb = s.vb := rfl
@[simp] theorem pushCode_strict (c : Code) : (pushCode c s).strict = s.strict := rfl
@[simp] theorem pushCode_crcacc (c : Code) : (pushCode c s).crcacc = s.crcacc := rfl
@[simp] theorem pushCode_ob (c : Code) : (pushCode c s).ob = s.ob := rfl
@[simp] theorem pushCode_q (c : Code) : (pushCode c s).q = s.q := rfl
@[simp] theorem pushCode_p (c : Code) : (pushCode c s).p = s.p := rfl
@[simp] theorem pushCode_xr (c : Code) : (pushCode c s).xr = s.xr := rfl
@[simp] theorem pushCode_db (c : Code) : (pushCode c s).db = s.db := rfl
@[simp] theorem pushCode_status (c : Code) : (pushCode c s).status = s.status := rfl
@[simp] theorem pushCode_pending (c : Code) : (pushCode c s).pending = actionOfCode c :: s.pending := rfl
@[simp] theorem pushCode_delivered (c : Code) : (pushCode c s).delivered = s.delivered := rfl

/-! ### resetBlock -/

@[simp] theorem resetBlock_cfg : (resetBlock s).cfg = s.cfg := rfl
@[simp] theorem resetBlock_op : (resetBlock s).op = { unit := 0, addr := 0, qty := 0 } := rfl
@[simp] theorem resetBlock_ib : (resetBlock s).ib = { cells := [], len := 0 } := rfl
@[simp] theorem resetBlock_vb : (resetBlock s).vb = { cells := [], len := 0 } := rfl
@[simp] theorem resetBlock_strict : (resetBlock s).strict = false := rfl
@[simp] theorem resetBlock_crcacc : (resetBlock s).crcacc = 0xFFFF#16 := rfl
@[simp] theorem resetBlock_ob : (resetBlock s).ob = { cells := [], len := 0 } := rfl
@[simp] theorem resetBlock_q : (resetBlock s).q = { unit := 0, fc := 0, addr := 0, qty := 0 } := rfl
@[simp] theorem resetBlock_p :
    (resetBlock s).p =
      { unit := 0, fc := 0, exc := 0, bc := 0, ra := [], ralen := 0 } := rfl
@[simp] theorem resetBlock_xr : (resetBlock s).xr = { t := .int, m := 0 } := rfl
@[simp] theorem resetBlock_db : (resetBlock s).db = { id := 0, fc := 0, addr := 0, fo := [], folen := 0 } := rfl
@[simp] theorem resetBlock_status :
    (resetBlock s).status =
      { err := .ok, isexc := false, crcok := false, rav := false } := rfl
@[simp] theorem resetBlock_pending : (resetBlock s).pending = s.pending := rfl
@[simp] theorem resetBlock_delivered : (resetBlock s).delivered = s.delivered := rfl

/-! ### The state after reset (R40, R200) -/

@[simp] theorem reset_op : BlockState.reset.op = { unit := 0, addr := 0, qty := 0 } := rfl
@[simp] theorem reset_ib : BlockState.reset.ib = { cells := [], len := 0 } := rfl
@[simp] theorem reset_vb : BlockState.reset.vb = { cells := [], len := 0 } := rfl
@[simp] theorem reset_strict : BlockState.reset.strict = false := rfl
@[simp] theorem reset_crcacc : BlockState.reset.crcacc = 0xFFFF#16 := rfl
@[simp] theorem reset_ob : BlockState.reset.ob = { cells := [], len := 0 } := rfl
@[simp] theorem reset_q : BlockState.reset.q = { unit := 0, fc := 0, addr := 0, qty := 0 } := rfl
@[simp] theorem reset_p :
    BlockState.reset.p = { unit := 0, fc := 0, exc := 0, bc := 0, ra := [], ralen := 0 } := rfl
@[simp] theorem reset_xr : BlockState.reset.xr = { t := .int, m := 0 } := rfl
@[simp] theorem reset_db : BlockState.reset.db = { id := 0, fc := 0, addr := 0, fo := [], folen := 0 } := rfl
@[simp] theorem reset_status :
    BlockState.reset.status = { err := .ok, isexc := false, crcok := false, rav := false } := rfl
@[simp] theorem resetWith_block (c : Config) : (State.resetWith c).toBlockState = BlockState.reset := rfl
@[simp] theorem resetWith_pending (c : Config) : (State.resetWith c).pending = [] := rfl
@[simp] theorem resetWith_delivered (c : Config) : (State.resetWith c).delivered = none := rfl
@[simp] theorem resetWith_cfg (c : Config) : (State.resetWith c).cfg = c := rfl
theorem reset_cfg : State.reset.cfg = Config.default := rfl

end Sys2Proof.Laws
end

