-- ==== Sys2Proof/Laws/Ops.lean ====
section
/-! SUPPORT. One lemma per shared operation that says once everything it can do, and the small lemmas of the
operations' results, for later proofs to cite instead of unfolding. -/

namespace Sys2Proof.Laws

open Sys2Proof.Machine

/-! ### Ending a command -/

theorem finish_next {s t : State} : finish s = .next t ↔ t = setErr .ok s := by
  simp [finish, eq_comm]

theorem raise_next {e : ErrCode} {s t : State} : raise e s = .next t ↔ t = setErr e s := by
  simp [raise, eq_comm]

/-! ### Reading back what an operation stored -/

theorem obByte_storeFrame (f : List Byte) (s : State) (i : Nat) :
    obByte (storeFrame f s) i = if h : i < f.length then f[i] else obByte s i := by
  simp [obByte, read_writeSeq]

theorem obSeq_storeFrame (f : List Byte) (s : State) : obSeq (storeFrame f s) f.length = f := by
  simp [obSeq, readSeq_writeSeq]

theorem ibByte_loadInput (f : List Byte) (s : State) (i : Nat) :
    ibByte (loadInput f s) i = if h : i < f.length then f[i] else ibByte s i := by
  simp [ibByte, read_writeSeq]

theorem ibSeq_loadInput (f : List Byte) (s : State) : ibSeq (loadInput f s) f.length = f := by
  simp [ibSeq, readSeq_writeSeq]

@[simp] theorem ibSeq_length (s : State) (n : Nat) : (ibSeq s n).length = n := by simp [ibSeq]

@[simp] theorem vbSeq_length (s : State) (n : Nat) : (vbSeq s n).length = n := by simp [vbSeq]

@[simp] theorem obSeq_length (s : State) (n : Nat) : (obSeq s n).length = n := by simp [obSeq]

theorem ibSeq_eq_map (s : State) (n : Nat) : ibSeq s n = (List.range n).map (ibByte s) := readSeq_eq_map _ _

theorem vbSeq_eq_map (s : State) (n : Nat) : vbSeq s n = (List.range n).map (vbCell s) := readSeq_eq_map _ _

theorem obSeq_eq_map (s : State) (n : Nat) : obSeq s n = (List.range n).map (obByte s) := readSeq_eq_map _ _

@[simp] theorem ibRegs_length (s : State) (i n : Nat) : (ibRegs s i n).length = n := by
  induction n generalizing i with
  | zero => rfl
  | succ n ih => simp [ibRegs, ih]

theorem getElem_ibRegs (s : State) (i n j : Nat) (h : j < (ibRegs s i n).length) :
    (ibRegs s i n)[j] = ibField s (3 + 2 * (i + j)) := by
  induction n generalizing i j with
  | zero => simp at h
  | succ n ih =>
    cases j with
    | zero => simp [ibRegs]
    | succ j => simp [ibRegs, ih, Nat.add_assoc, Nat.add_comm 1 j]

/-- The register array after an accepted response: the frame's registers, then what the cells held. -/
theorem raReg_acceptResponse (s : State) (i : Nat) :
    raReg (acceptResponse s) i
      = if i < (ibByte s 2).toNat / 2 then ibField s (3 + 2 * i) else raReg s i := by
  simp only [raReg, acceptResponse_p, read_writeSeq, ibRegs_length, getElem_ibRegs]
  by_cases h : i < (ibByte s 2).toNat / 2 <;> simp [h]

theorem foEntry_storeBlock (fc : Byte) (r : Rule) (es : List FieldEntry) (s : State) (i : Nat) :
    foEntry (storeBlock fc r es s) i = if h : i < es.length then es[i] else foEntry s i := by
  simp [foEntry, read_writeSeq]

/-! ### Lengths -/

@[simp] theorem beBytes_length (vs : List Reg16) : (beBytes vs).length = 2 * vs.length := by
  induction vs with
  | nil => rfl
  | cons v vs ih => simp only [beBytes, List.length_cons, ih]; omega

@[simp] theorem crcBytes_length (c : Reg16) : (crcBytes c).length = 2 := rfl

@[simp] theorem requestHeader_length (u f : Byte) (a v : Reg16) : (requestHeader u f a v).length = 6 := rfl

@[simp] theorem writeMultipleBody_length (u : Byte) (a : Reg16) (vs : List Reg16) :
    (writeMultipleBody u a vs).length = 7 + 2 * vs.length := by
  simp only [writeMultipleBody, List.length_append, requestHeader_length, List.length_cons, beBytes_length]; omega

@[simp] theorem withCrc_length (h : List Byte) : (withCrc h).length = h.length + 2 := by simp [withCrc]

/-! ### The commands: what each can do -/

theorem execCrcBuf_cases (s : State) :
    (s.cfg.bufCap < s.ib.len.toNat ∧ execCrcBuf s = .next (setErr .bufferRange (clearCrc s))) ∨
    (s.ib.len.toNat ≤ s.cfg.bufCap ∧
      execCrcBuf s = .next (setErr .ok { s with crcacc := crc16 (ibSeq s s.ib.len.toNat) })) := by
  by_cases h : s.cfg.bufCap < s.ib.len.toNat
  · exact .inl ⟨h, by simp [execCrcBuf, h, raise]⟩
  · exact .inr ⟨by omega, by simp [execCrcBuf, h, finish]⟩

theorem execEncWm_cases (s : State) :
    (127 < s.vb.len.toNat ∧ execEncWm s = .next (setErr .encodeRange (clearOb s))) ∨
    (s.vb.len.toNat ≤ 127 ∧ execEncWm s = .next (setErr .ok
      (storeFrame (withCrc (writeMultipleBody s.op.unit s.op.addr (vbSeq s s.vb.len.toNat))) s))) := by
  by_cases h : 127 < s.vb.len.toNat
  · exact .inl ⟨h, by simp [execEncWm, h, raise]⟩
  · exact .inr ⟨by omega, by simp [execEncWm, h, finish]⟩

theorem execDecReq_cases (s : State) :
    (s.cfg.bufCap < s.ib.len.toNat ∧ execDecReq s = .next (setErr .bufferRange (clearReq s))) ∨
    (s.ib.len.toNat ≤ s.cfg.bufCap ∧ s.ib.len.toNat < 8 ∧
      execDecReq s = .next (setErr .malformedRequest (clearReq s))) ∨
    (s.ib.len.toNat ≤ s.cfg.bufCap ∧ 8 ≤ s.ib.len.toNat ∧ crcRefused s s.ib.len.toNat = true ∧
      execDecReq s = .next (setErr .crcMismatch (clearReq s))) ∨
    (s.ib.len.toNat ≤ s.cfg.bufCap ∧ 8 ≤ s.ib.len.toNat ∧ crcRefused s s.ib.len.toNat = false ∧
      execDecReq s = .next (setErr .ok (acceptRequest s))) := by
  unfold execDecReq finish raise
  split
  · exact .inl ⟨‹_›, rfl⟩
  · split
    · exact .inr (.inl ⟨by omega, ‹_›, rfl⟩)
    · split
      · exact .inr (.inr (.inl ⟨by omega, by omega, ‹_›, rfl⟩))
      · exact .inr (.inr (.inr ⟨by omega, by omega, by simp_all, rfl⟩))

theorem execDecRsp_cases (s : State) :
    (s.cfg.bufCap < s.ib.len.toNat ∧ execDecRsp s = .next (setErr .bufferRange (clearRsp s))) ∨
    (s.ib.len.toNat ≤ s.cfg.bufCap ∧ s.ib.len.toNat < 5 ∧
      execDecRsp s = .next (setErr .malformedResponse (clearRsp s))) ∨
    (s.ib.len.toNat ≤ s.cfg.bufCap ∧ 5 ≤ s.ib.len.toNat ∧ crcRefused s s.ib.len.toNat = true ∧
      execDecRsp s = .next (setErr .crcMismatch (clearRsp s))) ∨
    (s.ib.len.toNat ≤ s.cfg.bufCap ∧ 5 ≤ s.ib.len.toNat ∧ crcRefused s s.ib.len.toNat = false ∧
      isExceptionCode (ibByte s 1) = true ∧
      execDecRsp s = .next (setErr .modbusException (acceptException s))) ∨
    (s.ib.len.toNat ≤ s.cfg.bufCap ∧ 5 ≤ s.ib.len.toNat ∧ crcRefused s s.ib.len.toNat = false ∧
      isExceptionCode (ibByte s 1) = false ∧ s.ib.len.toNat < 3 + (ibByte s 2).toNat + 2 ∧
      execDecRsp s = .next (setErr .inconsistentByteCount (clearRsp s))) ∨
    (s.ib.len.toNat ≤ s.cfg.bufCap ∧ 5 ≤ s.ib.len.toNat ∧ crcRefused s s.ib.len.toNat = false ∧
      isExceptionCode (ibByte s 1) = false ∧ 3 + (ibByte s 2).toNat + 2 ≤ s.ib.len.toNat ∧
      (ibByte s 2).getLsbD 0 = true ∧ execDecRsp s = .next (setErr .malformedResponse (clearRsp s))) ∨
    (s.ib.len.toNat ≤ s.cfg.bufCap ∧ 5 ≤ s.ib.len.toNat ∧ crcRefused s s.ib.len.toNat = false ∧
      isExceptionCode (ibByte s 1) = false ∧ 3 + (ibByte s 2).toNat + 2 ≤ s.ib.len.toNat ∧
      (ibByte s 2).getLsbD 0 = false ∧ execDecRsp s = .next (setErr .ok (acceptResponse s))) := by
  unfold execDecRsp finish raise
  split
  · exact .inl ⟨‹_›, rfl⟩
  · split
    · exact .inr (.inl ⟨by omega, ‹_›, rfl⟩)
    · split
      · exact .inr (.inr (.inl ⟨by omega, by omega, ‹_›, rfl⟩))
      · split
        · exact .inr (.inr (.inr (.inl ⟨by omega, by omega, by simp_all, ‹_›, rfl⟩)))
        · split
          · exact .inr (.inr (.inr (.inr (.inl ⟨by omega, by omega, by simp_all, by simp_all, ‹_›, rfl⟩))))
          · split
            · exact .inr (.inr (.inr (.inr (.inr (.inl
                ⟨by omega, by omega, by simp_all, by simp_all, by omega, ‹_›, rfl⟩)))))
            · exact .inr (.inr (.inr (.inr (.inr (.inr
                ⟨by omega, by omega, by simp_all, by simp_all, by omega, by simp_all, rfl⟩)))))

/-- The common course of the extraction commands: the outcome, by the first test that fails (R141). -/
theorem extCommand_cases (kind : Kind) (idx : Byte) (k : BitVec 4) (sc : BitVec 2) (s : State) :
    (s.status.rav = false ∧ extCommand kind idx k sc s = .next (setErr .decodeBlocked (clearXr s))) ∨
    (s.status.rav = true ∧ 2 ≤ sc.toNat ∧
      extCommand kind idx k sc s = .next (setErr .reservedScale (clearXr s))) ∨
    (s.status.rav = true ∧ sc.toNat < 2 ∧ 7 < k.toNat ∧
      extCommand kind idx k sc s = .next (setErr .bitRange (clearXr s))) ∨
    (s.status.rav = true ∧ sc.toNat < 2 ∧ k.toNat ≤ 7 ∧ s.p.ralen.toNat < idx.toNat + span kind ∧
      extCommand kind idx k sc s = .next (setErr .indexRange (clearXr s))) ∨
    (s.status.rav = true ∧ sc.toNat < 2 ∧ k.toNat ≤ 7 ∧ idx.toNat + span kind ≤ s.p.ralen.toNat ∧
      extCommand kind idx k sc s =
        .next (setErr .ok { s with xr := extractValue s kind idx.toNat k.toNat sc.toNat })) := by
  unfold extCommand finish raise
  split
  · exact .inl ⟨‹_›, rfl⟩
  · split
    · exact .inr (.inl ⟨by simp_all, ‹_›, rfl⟩)
    · split
      · exact .inr (.inr (.inl ⟨by simp_all, by omega, ‹_›, rfl⟩))
      · split
        · exact .inr (.inr (.inr (.inl ⟨by simp_all, by omega, by omega, ‹_›, rfl⟩)))
        · exact .inr (.inr (.inr (.inr ⟨by simp_all, by omega, by omega, by omega, rfl⟩)))

theorem presentFrame_next {bs : List Byte} {s t : State} (h : presentFrame bs s = .next t) :
    bs.length ≤ s.cfg.bufCap ∧ bs.length ≤ 65535 ∧ t = loadInput bs s := by
  unfold presentFrame at h
  split at h
  · cases h
  · split at h
    · cases h
    · cases h; exact ⟨by omega, by omega, rfl⟩

/-- When `RDE.DECODE` answers a next state, it was blocked, found no rule, or stored the block of the rule it
selected. -/
theorem execRdeDecode_next {fc : Byte} {s t : State} (h : execRdeDecode fc s = .next t) :
    (s.status.rav = false ∧ t = setErr .decodeBlocked (clearDb s)) ∨
    (s.status.rav = true ∧ selectRule s.op.addr s.p.ralen.toNat s.cfg.rules = none ∧
      t = setErr .ok (storeUnknown fc s)) ∨
    (s.status.rav = true ∧ ∃ r es, selectRule s.op.addr s.p.ralen.toNat s.cfg.rules = some r ∧
      extractFields s r.fields = some es ∧ wfNfields s.cfg r = true ∧ t = setErr .ok (storeBlock fc r es s)) := by
  unfold execRdeDecode at h
  split at h
  · exact .inl ⟨‹_›, raise_next.mp h⟩
  · rename_i hr
    have hr' : s.status.rav = true := by simpa using hr
    split at h
    · exact .inr (.inl ⟨hr', ‹_›, finish_next.mp h⟩)
    · rename_i r hsel
      split at h
      · cases h
      · rename_i es hes
        split at h
        · exact .inr (.inr ⟨hr', r, es, hsel, hes, ‹_›, finish_next.mp h⟩)
        · cases h

/-! ### Rules and fields -/

theorem selectRule_some {addr : Reg16} {n : Nat} {rs : List Rule} {r : Rule} (h : selectRule addr n rs = some r) :
    r ∈ rs ∧ r.addr = addr ∧ r.minCount ≤ n := by
  induction rs with
  | nil => cases h
  | cons q qs ih =>
    unfold selectRule at h
    split at h
    · cases h; exact ⟨by simp, ‹_ ∧ _›.1, ‹_ ∧ _›.2⟩
    · obtain ⟨h1, h2, h3⟩ := ih h
      exact ⟨by simp [h1], h2, h3⟩

theorem extractField_some {s : State} {d : FieldDesc} {e : FieldEntry} (h : extractField s d = some e) :
    ∃ kind, kindOfCode d.kind = some kind ∧ extractDefined s kind d.idx d.k d.sc = true ∧
      e = { fid := d.fid, t := (extractValue s kind d.idx d.k d.sc).t, m := (extractValue s kind d.idx d.k d.sc).m } := by
  unfold extractField at h
  split at h
  · cases h
  · rename_i kind hk
    split at h
    · cases h; exact ⟨kind, hk, ‹_›, rfl⟩
    · cases h

theorem extractFields_cons {s : State} {d : FieldDesc} {ds : List FieldDesc} {es : List FieldEntry}
    (h : extractFields s (d :: ds) = some es) :
    ∃ e es', extractField s d = some e ∧ extractFields s ds = some es' ∧ es = e :: es' := by
  unfold extractFields at h
  split at h <;> first | (cases h; done) | (cases h; exact ⟨_, _, ‹_›, ‹_›, rfl⟩)

theorem extractFields_length {s : State} {ds : List FieldDesc} {es : List FieldEntry}
    (h : extractFields s ds = some es) : es.length = ds.length := by
  induction ds generalizing es with
  | nil => cases h; rfl
  | cons d ds ih =>
    obtain ⟨e, es', _, h', rfl⟩ := extractFields_cons h
    simp [ih h']

/-- The entry stored for the descriptor at a place of the list is that descriptor's. -/
theorem extractFields_getElem {s : State} {ds : List FieldDesc} {es : List FieldEntry}
    (h : extractFields s ds = some es) (j : Nat) (hd : j < ds.length) (he : j < es.length) :
    extractField s ds[j] = some es[j] := by
  induction ds generalizing es j with
  | nil => simp at hd
  | cons d ds ih =>
    obtain ⟨e, es', h1, h2, rfl⟩ := extractFields_cons h
    cases j with
    | zero => simpa using h1
    | succ j =>
      simpa using ih h2 j (by simpa using hd) (by simpa using he)

/-! ### The host's actions -/

theorem admitWidth_next {tg : Target} {w v : Nat} {r : Result} {t : State} (h : admitWidth tg w v r = .next t) :
    v < 2 ^ w ∧ r = .next t := by
  unfold admitWidth at h
  split at h
  · exact ⟨‹_›, h⟩
  · cases h

theorem hostRead_next {tg : Target} {s t : State} (h : hostRead tg s = .next t) :
    ∃ v, readTarget s tg = some v ∧ t = { s with delivered := some v } := by
  unfold hostRead at h
  split at h
  · cases h; exact ⟨_, ‹_›, rfl⟩
  · cases h

/-- A code that runs is an instruction, the illegal command, or bytes that are no frame and only arrive. -/
theorem runCode_next {c : Code} {s t : State} (h : runCode c s = .next t) :
    (∃ i, decode c = .instr i ∧ exec i s = .next t) ∨
    (∃ w r, c = .cmd w ∧ decode c = .rejected r ∧ t = setErr .illegalCommand s) ∨
    (∃ bs r, (c = .req bs ∨ c = .rsp bs) ∧ decode c = .rejected r ∧ presentFrame bs s = .next t) := by
  unfold runCode at h
  split at h
  · exact .inl ⟨_, ‹_›, h⟩
  · rename_i r hr
    cases c with
    | cmd w => exact .inr (.inl ⟨w, r, rfl, hr, raise_next.mp h⟩)
    | req bs => exact .inr (.inr ⟨bs, r, .inl rfl, hr, h⟩)
    | rsp bs => exact .inr (.inr ⟨bs, r, .inr rfl, hr, h⟩)

/-- A host write that is admitted wrote one operand register, buffer cell, length or `CTRL`, or was `Issue`. -/
theorem hostWrite_next {tg : Target} {v : Nat} {s t : State} (h : hostWrite tg v s = .next t) :
    (tg = .opUnit ∧ t = { s with op := { s.op with unit := BitVec.ofNat 8 v } }) ∨
    (tg = .opAddr ∧ t = { s with op := { s.op with addr := BitVec.ofNat 16 v } }) ∨
    (tg = .opQty ∧ t = { s with op := { s.op with qty := BitVec.ofNat 16 v } }) ∨
    (∃ i, tg = .ib i ∧ i < s.cfg.bufCap ∧
      t = { s with ib := { s.ib with cells := Memory.write 0 s.ib.cells i (BitVec.ofNat 8 v) } }) ∨
    (tg = .iblen ∧ t = { s with ib := { s.ib with len := BitVec.ofNat 16 v } }) ∨
    (∃ i, tg = .vb i ∧ i < vbCap ∧
      t = { s with vb := { s.vb with cells := Memory.write 0 s.vb.cells i (BitVec.ofNat 16 v) } }) ∨
    (tg = .vlen ∧ t = { s with vb := { s.vb with len := BitVec.ofNat 8 v } }) ∨
    (tg = .ctrl ∧ t = { s with strict := v.testBit 0 }) ∨
    (tg = .cmd ∧ v < 2 ^ 32 ∧ runCode (.cmd (BitVec.ofNat 32 v)) s = .next t) := by
  cases tg <;> simp only [hostWrite] at h <;> try cases h
  case opUnit => have h := (admitWidth_next h).2; cases h; simp
  case opAddr => have h := (admitWidth_next h).2; cases h; simp
  case opQty => have h := (admitWidth_next h).2; cases h; simp
  case iblen => have h := (admitWidth_next h).2; cases h; simp
  case vlen => have h := (admitWidth_next h).2; cases h; simp
  case ctrl => have h := (admitWidth_next h).2; cases h; simp
  case cmd => have h := admitWidth_next h; simp_all
  case ib i =>
    split at h
    · have h := (admitWidth_next h).2; cases h; simp_all
    · cases h
  case vb i =>
    split at h
    · have h := (admitWidth_next h).2; cases h; simp_all
    · cases h

/-- A request's bytes decode to no command. -/
theorem decodeRequest_isCommand {bs : List Byte} {i : Instr} (h : decodeRequest bs = .instr i) :
    i.isCommand = false := by
  unfold decodeRequest at h
  repeat' split at h
  all_goals first | (cases h; rfl) | cases h

/-- A response's bytes decode to no command. -/
theorem decodeResponse_isCommand {bs : List Byte} {i : Instr} (h : decodeResponse bs = .instr i) :
    i.isCommand = false := by
  unfold decodeResponse at h
  repeat' split at h
  all_goals first | (cases h; rfl) | cases h

/-- A frame that executes arrives in `IB` (log 4). -/
theorem exec_frame_next {i : Instr} {s t : State} (hi : i.isCommand = false) (h : exec i s = .next t) :
    ∃ bs, t = loadInput bs s := by
  cases i <;> first | exact Bool.noConfusion hi | exact ⟨_, (presentFrame_next h).2.2⟩

/-- A word that runs is a command, or the illegal command. -/
theorem runCode_cmd_next {w : CmdWord} {s t : State} (h : runCode (.cmd w) s = .next t) :
    (∃ i, decodeCommand w = .instr i ∧ exec i s = .next t) ∨
    (∃ r, decodeCommand w = .rejected r ∧ t = setErr .illegalCommand s) := by
  rcases runCode_next h with ⟨i, hd, he⟩ | ⟨w', r, hw, hd, rfl⟩ | ⟨_, _, hc | hc, _⟩
  · exact .inl ⟨i, hd, he⟩
  · exact .inr ⟨r, hd, rfl⟩
  · cases hc
  · cases hc

/-- One host action, whole: a command that it issues, the reset, an illegal word, or writes to what the host writes
and a value delivered, with every result and `STATUS` as before. -/
theorem perform_next {a : HostAction} {s t : State} (h : perform a s = .next t) :
    (∃ i, issuedInstr a = some i ∧ exec i s = .next t) ∨
    (a = .hardReset ∧ t = resetBlock s) ∨
    (a ≠ .hardReset ∧ issuedInstr a = none ∧ (t = setErr .illegalCommand s ∨
      t = { s with op := t.op, ib := t.ib, vb := t.vb, strict := t.strict, delivered := t.delivered })) := by
  cases a with
  | write tg v =>
    rcases hostWrite_next h with ⟨rfl, rfl⟩ | ⟨rfl, rfl⟩ | ⟨rfl, rfl⟩ | ⟨_, rfl, _, rfl⟩ | ⟨rfl, rfl⟩ |
      ⟨_, rfl, _, rfl⟩ | ⟨rfl, rfl⟩ | ⟨rfl, rfl⟩ | ⟨rfl, hv, h⟩
    case inr.inr.inr.inr.inr.inr.inr.inr =>
      have hw : issuedWord (.write .cmd v) = some (BitVec.ofNat 32 v) := if_pos ⟨rfl, hv⟩
      rcases runCode_cmd_next h with ⟨i, hi, h⟩ | ⟨r, hr, rfl⟩
      · exact .inl ⟨i, by simp [issuedInstr, hw, hi], h⟩
      · exact .inr (.inr ⟨nofun, by simp [issuedInstr, hw, hr], .inl rfl⟩)
    all_goals exact .inr (.inr ⟨nofun, by simp [issuedInstr, issuedWord], .inr rfl⟩)
  | read tg =>
    obtain ⟨_, _, rfl⟩ := hostRead_next h
    exact .inr (.inr ⟨nofun, rfl, .inr rfl⟩)
  | issue w =>
    rcases runCode_cmd_next h with ⟨i, hi, h⟩ | ⟨r, hr, rfl⟩
    · exact .inl ⟨i, by simp [issuedInstr, issuedWord, hi], h⟩
    · exact .inr (.inr ⟨nofun, by simp [issuedInstr, issuedWord, hr], .inl rfl⟩)
  | request bs =>
    rcases runCode_next h with ⟨i, hd, he⟩ | ⟨_, _, hc, _⟩ | ⟨_, _, _, _, hp⟩
    · obtain ⟨_, rfl⟩ := exec_frame_next (decodeRequest_isCommand hd) he
      exact .inr (.inr ⟨nofun, rfl, .inr rfl⟩)
    · cases hc
    · obtain ⟨_, _, rfl⟩ := presentFrame_next hp
      exact .inr (.inr ⟨nofun, rfl, .inr rfl⟩)
  | response bs =>
    rcases runCode_next h with ⟨i, hd, he⟩ | ⟨_, _, hc, _⟩ | ⟨_, _, _, _, hp⟩
    · obtain ⟨_, rfl⟩ := exec_frame_next (decodeResponse_isCommand hd) he
      exact .inr (.inr ⟨nofun, rfl, .inr rfl⟩)
    · cases hc
    · obtain ⟨_, _, rfl⟩ := presentFrame_next hp
      exact .inr (.inr ⟨nofun, rfl, .inr rfl⟩)
  | hardReset => cases h; exact .inr (.inl ⟨rfl, rfl⟩)

/-! ### The step: what an action does depends on no action after it -/

/-- The same state with other actions to come. -/
def withStream (acts : List HostAction) (s : State) : State := { s with pending := acts }

/-- An answer, with other actions to come. -/
def streamed (acts : List HostAction) : Result → Result
  | .next t => .next (withStream acts t)
  | .fault e => .fault e
  | .refused e => .refused e

theorem streamed_ite (acts : List HostAction) (p : Prop) [Decidable p] (a b : Result) :
    streamed acts (if p then a else b) = if p then streamed acts a else streamed acts b :=
  apply_ite (streamed acts) p a b

theorem extractFields_withStream (acts : List HostAction) (s : State) (ds : List FieldDesc) :
    extractFields (withStream acts s) ds = extractFields s ds := by
  induction ds with
  | nil => rfl
  | cons d ds ih => simp only [extractFields, ih]; rfl

theorem ibRegs_withStream (acts : List HostAction) (s : State) (i n : Nat) :
    ibRegs (withStream acts s) i n = ibRegs s i n := by
  induction n generalizing i with
  | zero => rfl
  | succ n ih => simp only [ibRegs, ih]; rfl

theorem acceptResponse_withStream (acts : List HostAction) (s : State) :
    acceptResponse (withStream acts s) = withStream acts (acceptResponse s) := by
  simp only [acceptResponse, ibRegs_withStream]; rfl

theorem extCommand_withStream (kind : Kind) (idx : Byte) (k : BitVec 4) (sc : BitVec 2) (acts : List HostAction)
    (s : State) : extCommand kind idx k sc (withStream acts s) = streamed acts (extCommand kind idx k sc s) := by
  unfold extCommand
  simp only [streamed_ite]
  rfl

theorem presentFrame_withStream (bs : List Byte) (acts : List HostAction) (s : State) :
    presentFrame bs (withStream acts s) = streamed acts (presentFrame bs s) := by
  unfold presentFrame
  simp only [streamed_ite]
  rfl

theorem exec_withStream (i : Instr) (acts : List HostAction) (s : State) :
    exec i (withStream acts s) = streamed acts (exec i s) := by
  cases i
  case crcBuf => simp only [exec, execCrcBuf, streamed_ite]; rfl
  case encWm => simp only [exec, execEncWm, streamed_ite]; rfl
  case decReq => simp only [exec, execDecReq, streamed_ite]; rfl
  case decRsp => simp only [exec, execDecRsp, acceptResponse_withStream, streamed_ite]; rfl
  case rdeDecode fc =>
    simp only [exec, execRdeDecode, extractFields_withStream, streamed_ite]
    congr 1
    show (match selectRule s.op.addr s.p.ralen.toNat s.cfg.rules with | none => _ | some r => _) = _
    cases selectRule s.op.addr s.p.ralen.toNat s.cfg.rules with
    | none => rfl
    | some r =>
      cases h : extractFields s r.fields with
      | none => simp only [h]; rfl
      | some es => simp only [h, streamed_ite]; rfl
  all_goals first
    | rfl
    | exact extCommand_withStream ..
    | exact presentFrame_withStream ..

theorem runCode_withStream (c : Code) (acts : List HostAction) (s : State) :
    runCode c (withStream acts s) = streamed acts (runCode c s) := by
  unfold runCode
  cases decode c with
  | instr i => exact exec_withStream i acts s
  | rejected r => cases c <;> first | rfl | exact presentFrame_withStream ..

theorem admitWidth_streamed (tg : Target) (w v : Nat) (acts : List HostAction) (r : Result) :
    admitWidth tg w v (streamed acts r) = streamed acts (admitWidth tg w v r) := by
  simp only [admitWidth, streamed_ite]; rfl

theorem perform_withStream (a : HostAction) (acts : List HostAction) (s : State) :
    perform a (withStream acts s) = streamed acts (perform a s) := by
  cases a with
  | write tg v =>
    cases tg <;> simp only [perform, hostWrite, runCode_withStream, ← admitWidth_streamed, streamed_ite] <;> rfl
  | read tg =>
    have h : readTarget (withStream acts s) tg = readTarget s tg := by cases tg <;> rfl
    simp only [perform, hostRead, h]
    cases readTarget s tg <;> rfl
  | issue w => exact runCode_withStream ..
  | request bs => exact runCode_withStream ..
  | response bs => exact runCode_withStream ..
  | hardReset => rfl

theorem extCommand_next {kind : Kind} {idx : Byte} {k : BitVec 4} {sc : BitVec 2} {s t : State}
    (h : extCommand kind idx k sc s = .next t) : ∃ e x, t = setErr e { s with xr := x } := by
  rcases extCommand_cases kind idx k sc s with ⟨_, e⟩ | ⟨_, _, e⟩ | ⟨_, _, _, e⟩ | ⟨_, _, _, _, e⟩ | ⟨_, _, _, _, e⟩ <;>
    rw [e] at h <;> cases h <;> exact ⟨_, _, rfl⟩

/-- An instruction leaves the configuration and what the host holds as they are. -/
theorem exec_keeps {i : Instr} {s t : State} (h : exec i s = .next t) :
    t.cfg = s.cfg ∧ t.pending = s.pending ∧ t.delivered = s.delivered := by
  cases i <;> simp only [exec] at h
  case crcBuf => rcases execCrcBuf_cases s with ⟨_, e⟩ | ⟨_, e⟩ <;> rw [e] at h <;> cases h <;> exact ⟨rfl, rfl, rfl⟩
  case encWm => rcases execEncWm_cases s with ⟨_, e⟩ | ⟨_, e⟩ <;> rw [e] at h <;> cases h <;> exact ⟨rfl, rfl, rfl⟩
  case decReq =>
    rcases execDecReq_cases s with ⟨_, e⟩ | ⟨_, _, e⟩ | ⟨_, _, _, e⟩ | ⟨_, _, _, e⟩ <;> rw [e] at h <;> cases h <;>
      exact ⟨rfl, rfl, rfl⟩
  case decRsp =>
    rcases execDecRsp_cases s with ⟨_, e⟩ | ⟨_, _, e⟩ | ⟨_, _, _, e⟩ | ⟨_, _, _, _, e⟩ | ⟨_, _, _, _, _, e⟩ |
      ⟨_, _, _, _, _, _, e⟩ | ⟨_, _, _, _, _, _, e⟩ <;> rw [e] at h <;> cases h <;> exact ⟨rfl, rfl, rfl⟩
  case rdeDecode => rcases execRdeDecode_next h with ⟨_, rfl⟩ | ⟨_, _, rfl⟩ | ⟨_, _, _, _, _, _, rfl⟩ <;> exact ⟨rfl, rfl, rfl⟩
  all_goals first
    | (cases h; exact ⟨rfl, rfl, rfl⟩)
    | (obtain ⟨_, _, rfl⟩ := presentFrame_next h; exact ⟨rfl, rfl, rfl⟩)
    | (obtain ⟨_, _, rfl⟩ := extCommand_next h; exact ⟨rfl, rfl, rfl⟩)

/-- One host action leaves the configuration and the host's stream as they are. -/
theorem perform_keeps {a : HostAction} {s t : State} (h : perform a s = .next t) :
    t.cfg = s.cfg ∧ t.pending = s.pending := by
  rcases perform_next h with ⟨i, _, he⟩ | ⟨_, rfl⟩ | ⟨_, _, rfl | ht⟩
  · exact ⟨(exec_keeps he).1, (exec_keeps he).2.1⟩
  · exact ⟨rfl, rfl⟩
  · exact ⟨rfl, rfl⟩
  · rw [ht]; exact ⟨rfl, rfl⟩

/-- A step with an action to take is that action, performed on the state with the action taken. -/
theorem step_eq_perform {s : State} {a : HostAction} {rest : List HostAction} (hc : configWf s.cfg = true)
    (hp : s.pending = a :: rest) : step s = perform a (takeAction s rest) := by
  have h := perform_withStream a rest (takeAction s [])
  have e : withStream rest (takeAction s []) = takeAction s rest := rfl
  have b : blockStep s.cfg s.toBlockState a = match perform a (takeAction s []) with
      | .next t => .next (t.toBlockState, t.delivered)
      | .fault f => .fault f
      | .refused r => .refused r := if_pos hc
  rw [e] at h
  rw [h]
  unfold step stepOnce
  rw [hp]
  simp only [b]
  cases hq : perform a (takeAction s []) with
  | next t =>
    have hk : t.cfg = s.cfg := (perform_keeps hq).1
    simp only [streamed, withStream, hk]
  | fault e => rfl
  | refused e => rfl

/-- One step: the host has nothing to do, or its first action is performed whole. -/
theorem step_next {s t : State} (h : step s = .next t) :
    configWf s.cfg = true ∧
      ((s.pending = [] ∧ t = s) ∨ ∃ a rest, s.pending = a :: rest ∧ perform a (takeAction s rest) = .next t) := by
  have hc : configWf s.cfg = true := by
    cases hp : s.pending with
    | nil =>
      simp only [step, stepOnce, hp] at h
      split at h
      · assumption
      · cases h
    | cons a rest =>
      simp only [step, stepOnce, hp, blockStep] at h
      by_contra hn
      simp [hn] at h
  refine ⟨hc, ?_⟩
  cases hp : s.pending with
  | nil => simp only [step, stepOnce, hp, hc, if_true] at h; cases h; exact .inl ⟨rfl, rfl⟩
  | cons a rest => exact .inr ⟨a, rest, rfl, step_eq_perform hc hp ▸ h⟩

end Sys2Proof.Laws
end

