-- ==== Sys2Proof/Laws/PerInstr.lean ====
section
/-! SUPPORT. The per-instruction family `EncodedForm`: a command's code is one word, a frame's code is at least the
five bytes of the shortest layout (spec/30_encoding.md R78, R80). -/

namespace Sys2Proof.Laws

/-- A command encodes to a command word, a frame to a sequence of at least five bytes. -/
def EncodedForm.Statement (i : Instr) : Prop :=
  (i.isCommand = true → ∃ w, encode i = .cmd w) ∧ (i.isCommand = false → 5 ≤ (encode i).bytes.length)

theorem EncodedForm.crcInit : EncodedForm.Statement .crcInit :=
  ⟨fun _ => ⟨_, rfl⟩, fun h => (by cases h)⟩

theorem EncodedForm.crcByte : ∀ b, EncodedForm.Statement (.crcByte b) :=
  fun _ => ⟨fun _ => ⟨_, rfl⟩, fun h => (by cases h)⟩

theorem EncodedForm.crcBuf : EncodedForm.Statement .crcBuf :=
  ⟨fun _ => ⟨_, rfl⟩, fun h => (by cases h)⟩

theorem EncodedForm.encRd : EncodedForm.Statement .encRd :=
  ⟨fun _ => ⟨_, rfl⟩, fun h => (by cases h)⟩

theorem EncodedForm.encWs : EncodedForm.Statement .encWs :=
  ⟨fun _ => ⟨_, rfl⟩, fun h => (by cases h)⟩

theorem EncodedForm.encWm : EncodedForm.Statement .encWm :=
  ⟨fun _ => ⟨_, rfl⟩, fun h => (by cases h)⟩

theorem EncodedForm.decReq : EncodedForm.Statement .decReq :=
  ⟨fun _ => ⟨_, rfl⟩, fun h => (by cases h)⟩

theorem EncodedForm.decRsp : EncodedForm.Statement .decRsp :=
  ⟨fun _ => ⟨_, rfl⟩, fun h => (by cases h)⟩

theorem EncodedForm.extU16 : ∀ idx sc, EncodedForm.Statement (.extU16 idx sc) :=
  fun _ _ => ⟨fun _ => ⟨_, rfl⟩, fun h => (by cases h)⟩

theorem EncodedForm.extS16 : ∀ idx sc, EncodedForm.Statement (.extS16 idx sc) :=
  fun _ _ => ⟨fun _ => ⟨_, rfl⟩, fun h => (by cases h)⟩

theorem EncodedForm.extU32H : ∀ idx sc, EncodedForm.Statement (.extU32H idx sc) :=
  fun _ _ => ⟨fun _ => ⟨_, rfl⟩, fun h => (by cases h)⟩

theorem EncodedForm.extU32L : ∀ idx sc, EncodedForm.Statement (.extU32L idx sc) :=
  fun _ _ => ⟨fun _ => ⟨_, rfl⟩, fun h => (by cases h)⟩

theorem EncodedForm.extHib : ∀ idx, EncodedForm.Statement (.extHib idx) :=
  fun _ => ⟨fun _ => ⟨_, rfl⟩, fun h => (by cases h)⟩

theorem EncodedForm.extLob : ∀ idx, EncodedForm.Statement (.extLob idx) :=
  fun _ => ⟨fun _ => ⟨_, rfl⟩, fun h => (by cases h)⟩

theorem EncodedForm.extBit : ∀ idx k, EncodedForm.Statement (.extBit idx k) :=
  fun _ _ => ⟨fun _ => ⟨_, rfl⟩, fun h => (by cases h)⟩

theorem EncodedForm.rdeDecode : ∀ fc, EncodedForm.Statement (.rdeDecode fc) :=
  fun _ => ⟨fun _ => ⟨_, rfl⟩, fun h => (by cases h)⟩

theorem EncodedForm.sreset : EncodedForm.Statement .sreset :=
  ⟨fun _ => ⟨_, rfl⟩, fun h => (by cases h)⟩

theorem EncodedForm.frameReadReq : ∀ u a q c, EncodedForm.Statement (.frameReadReq u a q c) :=
  fun _ _ _ _ => ⟨fun h => (by cases h), fun _ => (by simp [encode, Code.bytes])⟩

theorem EncodedForm.frameWriteSingleReq : ∀ u a v c, EncodedForm.Statement (.frameWriteSingleReq u a v c) :=
  fun _ _ _ _ => ⟨fun h => (by cases h), fun _ => (by simp [encode, Code.bytes])⟩

theorem EncodedForm.frameWriteMultipleReq : ∀ u a vs c, EncodedForm.Statement (.frameWriteMultipleReq u a vs c) :=
  fun _ _ _ _ => ⟨fun h => (by cases h), fun _ => (by simp [encode, Code.bytes]; omega)⟩

theorem EncodedForm.frameNormalRsp : ∀ u f rs extra c, EncodedForm.Statement (.frameNormalRsp u f rs extra c) :=
  fun _ _ _ _ _ => ⟨fun h => (by cases h), fun _ => (by simp [encode, Code.bytes]; omega)⟩

theorem EncodedForm.frameExceptionRsp : ∀ u f x extra c, EncodedForm.Statement (.frameExceptionRsp u f x extra c) :=
  fun _ _ _ _ _ => ⟨fun h => (by cases h), fun _ => (by simp [encode, Code.bytes])⟩

end Sys2Proof.Laws
end

