-- ==== Sys2Proof/Tests/Slice0.lean ====
section
/-! SUPPORT. Tests: the checks of WellFormed, the decoding of words written out from spec/30_encoding.md, small vectors
of spec/95_test_vectors.md and of the rules' own worked cases, and, for every statement that has hypotheses, states
and operands that meet them (`witness_…`), at the boundary of each clause. -/

namespace Sys2Proof.Tests

open Sys2Proof.Machine

/-! ### Small states -/

/-- What a next state shows. -/
def seen {α : Type} (r : Result) (f : State → α) : Option α :=
  match r with
  | .next t => some (f t)
  | .fault _ => none
  | .refused _ => none

theorem next_of_seen {α : Type} {r : Result} {f : State → α} {a : α} (h : seen r f = some a) :
    ∃ t, r = .next t ∧ f t = a := by
  cases r with
  | next t => exact ⟨t, rfl, Option.some.inj h⟩
  | fault _ => cases h
  | refused _ => cases h

/-- Why a step refuses. -/
def refusal (r : Result) : Option Refusal :=
  match r with
  | .next _ => none
  | .fault _ => none
  | .refused e => some e

/-- Reset, with bytes in `IB`. -/
def withIb (bytes : List Byte) : State := loadInput bytes State.reset

/-- The same in strict policy. -/
def withIbStrict (bytes : List Byte) : State := { withIb bytes with strict := true }

/-- Reset, with a length in `IBLEN` over an `IB` of zeros. -/
def withLen (n : Nat) : State := { State.reset with ib := { cells := [], len := BitVec.ofNat 16 n } }

/-- Reset, with values in `VB`. -/
def withVb (vs : List Reg16) : State :=
  { State.reset with vb := { cells := Memory.writeSeq 0 [] 0 vs, len := BitVec.ofNat 8 vs.length } }

/-- Reset, with operand registers. -/
def withOp (u : Byte) (a q : Reg16) : State := { State.reset with op := { unit := u, addr := a, qty := q } }

/-- A valid register array. -/
def withRegs (rs : List Reg16) : State :=
  { State.reset with
    p := { unit := 1, fc := 3, exc := 0, bc := BitVec.ofNat 8 (2 * rs.length), ra := Memory.writeSeq 0 [] 0 rs,
           ralen := BitVec.ofNat 8 rs.length }
    status := { err := .ok, isexc := false, crcok := true, rav := true } }

/-- The table of 95_test_vectors.md section 4. -/
def table : List Rule :=
  [ ⟨60, 5, 1, [⟨1, 0, 0, 0, 1⟩, ⟨2, 0, 1, 0, 1⟩, ⟨3, 0, 2, 0, 1⟩, ⟨4, 0, 3, 0, 1⟩, ⟨5, 1, 4, 0, 1⟩]⟩,
    ⟨60, 3, 2, [⟨1, 0, 0, 0, 1⟩, ⟨2, 0, 1, 0, 1⟩, ⟨3, 0, 2, 0, 1⟩]⟩,
    ⟨0, 2, 3, [⟨10, 2, 0, 0, 0⟩]⟩, ⟨2, 2, 4, [⟨11, 3, 0, 0, 1⟩]⟩,
    ⟨100, 1, 5, [⟨20, 4, 0, 0, 0⟩, ⟨21, 5, 0, 0, 0⟩, ⟨22, 6, 0, 0, 0⟩, ⟨23, 6, 0, 1, 0⟩, ⟨24, 6, 0, 2, 0⟩]⟩ ]

/-- A state whose configuration holds that table, with a start address and a register array. -/
def withTable (addr : Reg16) (rs : List Reg16) : State :=
  { withRegs rs with
    cfg := { bufCap := 512, foCap := 32, rtCap := 64, rules := table }
    op := { unit := 0, addr := addr, qty := 0 } }

/-- A state in which the host has actions to perform. -/
def withPending (acts : List HostAction) : State := { State.reset with pending := acts }

/-! ### WellFormed: one ill-formed term for each check -/

theorem test_wf_refuses_128_values : (Instr.frameWriteMultipleReq 1 0 (List.replicate 128 0) 0).wf = false := by
  simp only [Instr.wf, List.length_replicate]; decide
theorem test_wf_refuses_normal_with_bit_7 : (Instr.frameNormalRsp 1 0x83#8 [] [] 0).wf = false := by decide
theorem test_wf_refuses_128_registers : (Instr.frameNormalRsp 1 3 (List.replicate 128 0) [] 0).wf = false := by
  simp only [Instr.wf, List.length_replicate]; decide
theorem test_wf_refuses_long_normal : (Instr.frameNormalRsp 1 3 [] (List.replicate 65531 0) 0).wf = false := by
  simp only [Instr.wf, List.length_replicate]; decide
theorem test_wf_refuses_exception_without_bit_7 : (Instr.frameExceptionRsp 1 3 2 [] 0).wf = false := by decide
theorem test_wf_refuses_long_exception : (Instr.frameExceptionRsp 1 0x83#8 2 (List.replicate 65531 0) 0).wf = false := by
  simp only [Instr.wf, List.length_replicate]; decide

/-! ### Decoding: a word of every row, written out from R80, R81 and R71 to R75 -/

theorem test_decode_crcInit : decodeCommand 0b00000000000000000000000000000001#32 = .instr .crcInit := by decide
theorem test_decode_crcByte : decodeCommand 0b00000000000000001010010100000010#32 = .instr (.crcByte 0xA5#8) := by decide
theorem test_decode_crcBuf : decodeCommand 0b00000000000000000000000000000011#32 = .instr .crcBuf := by decide
theorem test_decode_encRd : decodeCommand 0b00000000000000000000000000010000#32 = .instr .encRd := by decide
theorem test_decode_encWs : decodeCommand 0b00000000000000000000000000010001#32 = .instr .encWs := by decide
theorem test_decode_encWm : decodeCommand 0b00000000000000000000000000010010#32 = .instr .encWm := by decide
theorem test_decode_decReq : decodeCommand 0b00000000000000000000000000100000#32 = .instr .decReq := by decide
theorem test_decode_decRsp : decodeCommand 0b00000000000000000000000000100001#32 = .instr .decRsp := by decide
theorem test_decode_extU16 : decodeCommand 0b00000000000100000000001100110000#32 = .instr (.extU16 3 1) := by decide
theorem test_decode_extS16 : decodeCommand 0b00000000000100000000010000110001#32 = .instr (.extS16 4 1) := by decide
theorem test_decode_extU32H : decodeCommand 0b00000000001000000000000100110010#32 = .instr (.extU32H 1 2) := by decide
theorem test_decode_extU32L : decodeCommand 0b00000000001100001111111100110011#32 = .instr (.extU32L 255 3) := by decide
theorem test_decode_extHib : decodeCommand 0b00000000000000000000001000110100#32 = .instr (.extHib 2) := by decide
theorem test_decode_extLob : decodeCommand 0b00000000000000000000001000110101#32 = .instr (.extLob 2) := by decide
theorem test_decode_extBit : decodeCommand 0b00000000000011010000000100110110#32 = .instr (.extBit 1 13) := by decide
theorem test_decode_rdeDecode : decodeCommand 0b00000000000000000000001100111000#32 = .instr (.rdeDecode 3) := by decide
theorem test_decode_sreset : decodeCommand 0b00000000000000000000000001111111#32 = .instr .sreset := by decide

theorem test_decode_opcode_0 : decodeCommand 0#32 = .rejected (.unknownOpcode 0) := by decide
theorem test_decode_opcode_37 : decodeCommand 0x00000037#32 = .rejected (.unknownOpcode 0x37#8) := by decide
theorem test_decode_rsv : decodeCommand 0x00400001#32 = .rejected .reservedNotZero := by decide
theorem test_decode_unused_a : decodeCommand 0x00000103#32 = .rejected .unusedFieldNotZero := by decide
theorem test_decode_unused_b : decodeCommand 0x00010030#32 = .rejected .unusedFieldNotZero := by decide
theorem test_decode_unused_sc : decodeCommand 0x00100036#32 = .rejected .unusedFieldNotZero := by decide

theorem test_decode_frameReadReq : decodeRequest [0x01, 0x03, 0x00, 0x3C, 0x00, 0x05, 0x45, 0xC5]
    = .instr (.frameReadReq 1 60 5 0xC545#16) := by decide
theorem test_decode_frameWriteSingleReq : decodeRequest [0x01, 0x06, 0x00, 0x10, 0x00, 0x04, 0x89, 0xCC]
    = .instr (.frameWriteSingleReq 1 16 4 0xCC89#16) := by decide
theorem test_decode_frameWriteMultipleReq :
    decodeRequest [0x01, 0x10, 0x00, 0x00, 0x00, 0x01, 0x02, 0x00, 0x02, 0x27, 0x91]
      = .instr (.frameWriteMultipleReq 1 0 [2] 0x9127#16) := by decide
theorem test_decode_frameNormalRsp : decodeResponse [0x01, 0x03, 0x04, 0x00, 0x01, 0x86, 0xA0, 0xC9, 0xEB]
    = .instr (.frameNormalRsp 1 3 [0x0001#16, 0x86A0#16] [] 0xEBC9#16) := by decide
theorem test_decode_frameExceptionRsp : decodeResponse [0x01, 0x83, 0x02, 0xC0, 0xF1]
    = .instr (.frameExceptionRsp 1 0x83#8 2 [] 0xF1C0#16) := by decide
theorem test_decode_extra_bytes : decodeResponse [0x01, 0x03, 0x02, 0x04, 0x03, 0xAA, 0xBB, 0x12, 0x34]
    = .instr (.frameNormalRsp 1 3 [0x0403#16] [0xAA, 0xBB] 0x3412#16) := by decide
theorem test_decode_byte_count : decodeRequest [0x01, 0x10, 0x00, 0x00, 0x00, 0x01, 0x04, 0x00, 0x02, 0x27, 0x91]
    = .rejected .byteCount := by decide
theorem test_decode_odd_count : decodeResponse [0x01, 0x03, 0x01, 0x04, 0x03, 0x04] = .rejected .byteCount := by decide
theorem test_decode_short_data : decodeResponse [0x01, 0x03, 0x04, 0x00, 0x01, 0x86] = .rejected .frameTooShort := by
  decide
theorem test_decode_no_request : decodeRequest [0x01, 0x04, 0x00, 0x3C, 0x00, 0x05, 0x45, 0xC5]
    = .rejected (.notARequest 4) := by decide

/-- A table word's first byte is its low byte: the read request as a number. -/
theorem test_table_word_frame : decodeTableWord 64 0xC54505003C000301 = some (.frameReadReq 1 60 5 0xC545#16) := by decide
/-- A table word that gives a write-multiple request's header alone: its values and checksum are zero. -/
theorem test_table_word_header : decodeTableWord 56 0x02010000001001 = some (.frameWriteMultipleReq 1 0 [0] 0) := by
  decide
theorem test_table_word_response : decodeTableWord 40 0xF1C0028301 = some (.frameExceptionRsp 1 0x83#8 2 [] 0xF1C0#16) := by
  decide
theorem test_table_word_command : decodeTableWord 32 0x00100431 = some (.extS16 4 1) := by decide

/-- The host's placement of an instruction: the next step runs it. -/
theorem test_withFetchWord_command :
    seen (step (State.withFetchWord State.reset 32 0x00000102)) (fun t => (t.crcacc, t.pending))
      = some (0x807E#16, []) := by decide
theorem test_withFetchWord_frame :
    seen (step (State.withFetchWord State.reset 64 0xC54505003C000301)) (fun t => (t.ib.len, ibSeq t 8))
      = some (8#16, [0x01, 0x03, 0x00, 0x3C, 0x00, 0x05, 0x45, 0xC5]) := by decide

/-! ### Vectors of the spec, one step each -/

/-- R103: `crc_step(0xFFFF, 0x01) = 0x807E`. -/
theorem test_crcByte : seen (exec (.crcByte 0x01#8) State.reset) (·.crcacc) = some 0x807E#16 := by decide
/-- P4: after 0x807E the byte 0x03 gives 0x2140. -/
theorem test_crcByte_continues :
    seen (exec (.crcByte 0x03#8) { State.reset with crcacc := 0x807E#16 }) (·.crcacc) = some 0x2140#16 := by decide
theorem test_crcInit : seen (exec .crcInit { State.reset with crcacc := 0x1234#16 }) (·.crcacc) = some 0xFFFF#16 := by
  decide
/-- R104's case. -/
theorem test_crcBuf : seen (exec .crcBuf (withIb [0x01, 0x03, 0x00, 0x3C, 0x00, 0x05])) (·.crcacc)
    = some 0xC545#16 := by decide +kernel
/-- KV12: `IBLEN = 513`. -/
theorem test_crcBuf_range : seen (exec .crcBuf (withLen 513)) (fun t => (t.crcacc, t.status.err))
    = some (0xFFFF#16, .bufferRange) := by decide
/-- R111's case. -/
theorem test_encRd : seen (exec .encRd (withOp 1 60 5)) (fun t => obSeq t 8)
    = some [0x01, 0x03, 0x00, 0x3C, 0x00, 0x05, 0x45, 0xC5] := by decide +kernel
/-- R112's case. -/
theorem test_encWs : seen (exec .encWs (withOp 1 16 4)) (fun t => obSeq t 8)
    = some [0x01, 0x06, 0x00, 0x10, 0x00, 0x04, 0x89, 0xCC] := by decide +kernel
/-- R113's case; `OP_QTY` is not read. -/
theorem test_encWm :
    seen (exec .encWm { withVb [2] with op := { unit := 1, addr := 0, qty := 0xBEEF#16 } }) (fun t => obSeq t 11)
      = some [0x01, 0x10, 0x00, 0x00, 0x00, 0x01, 0x02, 0x00, 0x02, 0x27, 0x91] := by decide +kernel
/-- EV15: `VLEN = 128`. -/
theorem test_encWm_range : seen (exec .encWm { State.reset with vb := { cells := [], len := 128#8 } })
    (fun t => (t.ob.len, t.status.err)) = some (0#16, .encodeRange) := by decide
/-- R121's case. -/
theorem test_decReq : seen (exec .decReq (withIb [0x01, 0x03, 0x00, 0x3C, 0x00, 0x05, 0x45, 0xC5]))
    (fun t => (t.q, statusWord t.status))
      = some ({ unit := 1, fc := 3, addr := 60, qty := 5 }, 0x200#32) := by decide +kernel
/-- R121 (d): seven bytes are too few. -/
theorem test_decReq_short : seen (exec .decReq (withLen 7)) (·.status.err) = some .malformedRequest := by decide
/-- R122's case. -/
theorem test_decRsp : seen (exec .decRsp (withIb [0x01, 0x03, 0x04, 0x00, 0x01, 0x86, 0xA0, 0xC9, 0xEB]))
    (fun t => (t.p.ralen, raReg t 0, raReg t 1, statusWord t.status))
      = some (2#8, 0x0001#16, 0x86A0#16, 0x600#32) := by decide +kernel
/-- P3: an exception response. -/
theorem test_decRsp_exception : seen (exec .decRsp (withIb [0x01, 0x83, 0x02, 0xC0, 0xF1]))
    (fun t => (t.p.fc, t.p.exc, t.p.ralen, statusWord t.status))
      = some (0x83#8, 2#8, 0#8, 0x304#32) := by decide +kernel
/-- R142's case. -/
theorem test_extU16 : seen (exec (.extU16 0 1) (withRegs [0x08FC#16])) (·.xr) = some ⟨.dec1, 2300⟩ := by decide
theorem test_extU16_reserved_scale : seen (exec (.extU16 9 2) (withRegs [0x08FC#16])) (·.status.err)
    = some .reservedScale := by decide
/-- R143's corner case. -/
theorem test_extS16 : seen (exec (.extS16 0 0) (withRegs [0x8000#16])) (fun t => (t.xr.t, t.xr.m.toInt))
    = some (.int, -32768) := by decide
theorem test_extS16_positive : seen (exec (.extS16 0 0) (withRegs [0x7FFF#16])) (fun t => t.xr.m.toInt)
    = some 32767 := by decide
/-- R144's corner case: no sign. -/
theorem test_extU32H : seen (exec (.extU32H 0 0) (withRegs [0x8000#16, 0])) (fun t => t.xr.m.toInt)
    = some 2147483648 := by decide
/-- R144: the second register is missing. -/
theorem test_extU32H_index : seen (exec (.extU32H 1 0) (withRegs [0x0001#16, 0x86A0#16])) (·.status.err)
    = some .indexRange := by decide
/-- R145's case. -/
theorem test_extU32L : seen (exec (.extU32L 0 1) (withRegs [0x0001#16, 0x86A0#16])) (fun t => (t.xr.t, t.xr.m.toInt))
    = some (.dec1, 2258632705) := by decide
/-- R146's, R147's and R148's cases. -/
theorem test_extHib : seen (exec (.extHib 0) (withRegs [0x0403#16])) (·.xr) = some ⟨.int, 4⟩ := by decide
theorem test_extLob : seen (exec (.extLob 0) (withRegs [0x0403#16])) (·.xr) = some ⟨.int, 3⟩ := by decide
theorem test_extBit : seen (exec (.extBit 0 1) (withRegs [0x0403#16])) (·.xr) = some ⟨.bool, 1⟩ := by decide
theorem test_extBit_range : seen (exec (.extBit 0 8) (withRegs [0x0403#16])) (·.status.err) = some .bitRange := by decide
/-- P5: the 32-bit field under address 0, and no rule under address 7. -/
theorem test_rdeDecode : seen (exec (.rdeDecode 3) (withTable 0 [0x0001#16, 0x86A0#16]))
    (fun t => (t.db.id, t.db.folen, foEntry t 0)) = some (3#16, 1#8, ⟨10, .int, 100000⟩) := by decide +kernel
theorem test_rdeDecode_unknown : seen (exec (.rdeDecode 3) (withTable 7 [0x0001#16, 0x86A0#16]))
    (fun t => (t.db.id, t.db.fc, t.db.addr, t.db.folen, t.status.err)) = some (0#16, 3#8, 7#16, 0#8, .ok) := by decide
theorem test_sreset : seen (exec .sreset (withRegs [1, 2])) id = some State.reset := by decide
/-- LDIB's effect, whole; a frame that IB cannot hold. -/
theorem test_frame_arrives : seen (exec (.frameExceptionRsp 1 0x83#8 2 [] 0xF1C0#16) State.reset)
    (fun t => (t.ib.len, ibSeq t 5)) = some (5#16, [0x01, 0x83, 0x02, 0xC0, 0xF1]) := by decide
theorem test_frame_too_long : refusal (exec (.frameExceptionRsp 1 0x83#8 2 (List.replicate 508 0) 0) State.reset)
    = some (.writeNotAdmitted (.ib 512)) := by decide +kernel
/-- R175. -/
theorem test_illegal : seen (step (withPending [.issue 0#32])) id
    = some { State.reset with status := { err := .illegalCommand, isexc := false, crcok := false, rav := false } } := by
  decide
/-- R89's ill-formed variants of the table: a repeated key, a span, a bit, a scale, a block id, a minCount. -/
theorem test_table_wf : configWf (withTable 0 []).cfg = true := by decide
theorem test_table_key : rulesWf { Config.default with rules := table ++ [⟨60, 5, 9, []⟩] } = false := by decide
theorem test_table_span : rulesWf { Config.default with rules := [⟨0, 1, 3, [⟨10, 2, 0, 0, 0⟩]⟩] } = false := by decide
theorem test_table_bit : rulesWf { Config.default with rules := [⟨100, 1, 5, [⟨22, 6, 0, 8, 0⟩]⟩] } = false := by decide
theorem test_table_scale : rulesWf { Config.default with rules := [⟨100, 1, 5, [⟨20, 4, 0, 0, 1⟩]⟩] } = false := by decide
theorem test_table_block : rulesWf { Config.default with rules := [⟨100, 1, 0, []⟩] } = false := by decide
theorem test_table_mincount : rulesWf { Config.default with rules := [⟨100, 128, 5, []⟩] } = false := by decide
/-- R85's assembler line and R12's hex string. -/
theorem test_assembler : asmLine "EXT.S16 4, x0.1".toList = some 0x00100431#32 := by decide +kernel
theorem test_hex : hexBytes "018302".toList = some [0x01, 0x83, 0x02] := by decide
/-- A write of the reset value leaves no entry, and memory after reset is in canonical form. -/
theorem test_memory_canonical : Memory.write (0 : Byte) [(2, 7), (5, 9)] 2 0 = [(5, 9)] := by decide
theorem test_memory_reset : Memory.wf (0 : Byte) State.reset.ib.cells = true := by decide

/-! ### Witnesses: states and operands that meet the hypotheses of each statement, clause by clause -/

/-- DecodeOfEncodeIsTheInstruction: 127 values, 127 registers, 65535 bytes, and a command. -/
theorem witness_well_formed :
    (Instr.frameWriteMultipleReq 1 0 (List.replicate 127 0) 0).wf = true ∧
    (Instr.frameNormalRsp 1 3 (List.replicate 127 0) (List.replicate 65276 0) 0).wf = true ∧
    (Instr.frameExceptionRsp 1 0x80#8 2 (List.replicate 65530 0) 0).wf = true ∧ (Instr.extBit 255 15).wf = true := by
  simp only [Instr.wf, List.length_replicate]; decide

/-- EncodeOfDecodeIsTheCode: one code of each form. -/
theorem witness_codes_decode :
    decode (.cmd 0x0000FF02#32) = .instr (.crcByte 0xFF#8) ∧
    decode (.req [0, 0x10, 0, 0, 0, 0, 0, 0, 0]) = .instr (.frameWriteMultipleReq 0 0 [] 0) ∧
    decode (.rsp [0, 0x7F, 0, 0, 0]) = .instr (.frameNormalRsp 0 0x7F#8 [] [] 0) := by decide

/-- IllegalWordsAreThoseOfTheirThreeCauses: a rejected word of each cause, one of them with OPC = 0. -/
theorem witness_rejected_words :
    decodeCommand 0#32 = .rejected (.unknownOpcode 0) ∧ fieldOpc 0#32 = 0 ∧
    decodeCommand 0x80000001#32 = .rejected .reservedNotZero ∧
    decodeCommand 0x00200034#32 = .rejected .unusedFieldNotZero := by decide

/-- StepRunsTheDecodedInstruction: each of its seven clauses; for the last, malformed bytes that just fit `IB` and that
just do not. -/
theorem witness_step_clauses :
    configWf State.reset.cfg = true ∧
    (withPending [.issue 1#32]).pending = actionOfCode (.cmd 1#32) :: [] ∧ decode (.cmd 1#32) = .instr .crcInit ∧
    (withPending [.response [0, 0x80, 0, 0, 0]]).pending = actionOfCode (.rsp [0, 0x80, 0, 0, 0]) :: [] ∧
    decode (.rsp [0, 0x80, 0, 0, 0]) = .instr (.frameExceptionRsp 0 0x80#8 0 [] 0) ∧
    (withPending [.write .cmd 0x7F]).pending = .write .cmd 0x7F :: [] ∧ 0x7F < 2 ^ 32 ∧
    decodeCommand (BitVec.ofNat 32 0x7F) = .instr .sreset ∧
    (withPending [.write .opUnit 255]).pending = .write .opUnit 255 :: [] ∧
    (withPending [.read .status]).pending = .read .status :: [] ∧
    (withPending [.hardReset]).pending = .hardReset :: [] ∧ State.reset.pending = [] := by decide

theorem witness_malformed_bytes :
    (withPending [.request (List.replicate 512 1)]).pending = .request (List.replicate 512 1) :: [] ∧
    decodeRequest (List.replicate 512 1) = .rejected (.notARequest 1) ∧
    (List.replicate 512 (1 : Byte)).length ≤ State.reset.cfg.bufCap ∧
    (withPending [.response (1 :: 3 :: List.replicate 511 1)]).pending
      = .response (1 :: 3 :: List.replicate 511 1) :: [] ∧
    decodeResponse (1 :: 3 :: List.replicate 511 1) = .rejected .byteCount ∧
    State.reset.cfg.bufCap < (1 :: 3 :: List.replicate 511 (1 : Byte)).length := by
  refine ⟨rfl, ?_, ?_, rfl, ?_, ?_⟩ <;> decide +kernel

/-- IllegalCommandWritesOnlyTheError: a word that matches no row, and a command after it. -/
theorem witness_illegal_command :
    configWf State.reset.cfg = true ∧ (withPending [.issue 0#32, .issue 1#32]).pending = .issue 0#32 :: [.issue 1#32] ∧
    (∀ row ∈ opcodeMap, 0#32 &&& row.mask ≠ row.pattern) ∧ [HostAction.issue 1#32] = actionOfCode (.cmd 1#32) :: [] ∧
    decode (.cmd 1#32) = .instr .crcInit := by decide

/-- ChecksumLaws: two states with the same bytes and different accumulators; and `IBLEN = 0`. -/
theorem witness_equal_buffers :
    (withIb [7]).ib.len = ({ withIb [7] with crcacc := 0 } : State).ib.len ∧
    (∀ i, i < (withIb [7]).ib.len.toNat → ibByte (withIb [7]) i = ibByte { withIb [7] with crcacc := 0 } i) ∧
    (withIb [7]).ib.len.toNat ≤ (withIb [7]).cfg.bufCap ∧
    (∃ t, exec .crcBuf (withIb [7]) = .next t) ∧ (∃ t, exec .crcBuf { withIb [7] with crcacc := 0 } = .next t) ∧
    State.reset.ib.len = 0 :=
  ⟨rfl, fun _ _ => rfl, by decide, ⟨_, rfl⟩, ⟨_, rfl⟩, rfl⟩

/-- ChecksumResidueIsZero: the shortest sequence whose last two bytes are its checksum. -/
theorem witness_trailing_checksum :
    2 ≤ (withIb [0xFF, 0xFF]).ib.len.toNat ∧
    (withIb [0xFF, 0xFF]).ib.len.toNat ≤ (withIb [0xFF, 0xFF]).cfg.bufCap ∧
    trailingCrcMatches (withIb [0xFF, 0xFF]) (withIb [0xFF, 0xFF]).ib.len.toNat = true := by decide

/-- CrcBufChecksumsTheInputBuffer: `IBLEN` one above `BUF_CAP`, at it, and zero. -/
theorem witness_crcBuf :
    (withLen 513).cfg.bufCap < (withLen 513).ib.len.toNat ∧ (withLen 512).ib.len.toNat ≤ (withLen 512).cfg.bufCap ∧
    (withLen 0).ib.len = 0 := by decide

/-- OtherCommandsLeaveTheStreamAlone: a run with a frame, an encoder, a decoder and fed bytes. -/
theorem witness_other_commands :
    (∀ i ∈ [Instr.encRd, .crcByte 1, .frameReadReq 1 0 1 0, .decReq], i ≠ .crcInit ∧ i ≠ .crcBuf ∧ i ≠ .sreset) ∧
    (∃ t, execAll [.encRd, .crcByte 1, .frameReadReq 1 0 1 0, .decReq] State.reset = .next t) ∧
    State.reset.crcacc = crc16 [] :=
  ⟨by decide, ⟨_, rfl⟩, by decide⟩

/-- A host that writes an operand, reads, issues an illegal word, feeds a byte through `CMD` and brings malformed
bytes. -/
def mixedActions : List HostAction :=
  [.write .opAddr 60, .read .crcacc, .issue 0, .write .cmd 0x00000102, .request [1, 3]]

/-- OtherCommandsLeaveTheStreamAlone: those actions between two checksum commands. -/
theorem witness_other_actions :
    (∀ a ∈ (withPending mixedActions).pending.take 5, ¬RestartsStream a) ∧
    (withPending mixedActions).crcacc = crc16 [] ∧ mixedActions.flatMap fedByAction = [1] ∧
    ∃ t, runSteps 5 (withPending mixedActions) = .next t ∧ t.ib.len = 2 := by
  refine ⟨?_, by decide, by decide +kernel, next_of_seen (f := (·.ib.len)) (by decide +kernel)⟩
  unfold RestartsStream; decide +kernel

/-- EncodeWriteMultipleBuildsItsFrame and EncodedRequestsParseBack: 127 and 128 values. -/
theorem witness_value_counts :
    ({ State.reset with vb := { cells := [], len := 127#8 } } : State).vb.len.toNat ≤ 127 ∧
    127 < ({ State.reset with vb := { cells := [], len := 128#8 } } : State).vb.len.toNat ∧
    (∃ t, exec .encWm { State.reset with vb := { cells := [], len := 127#8 } } = .next t) ∧
    configWf State.reset.cfg = true ∧ (∃ t, exec .encRd State.reset = .next t) ∧
    ∃ t, exec .encWs State.reset = .next t :=
  ⟨by decide, by decide, ⟨_, rfl⟩, by decide, ⟨_, rfl⟩, ⟨_, rfl⟩⟩

/-- EncodedFramesCarryTheirOwnChecksum and EncodersBuildTheTablesFrames: each encoder succeeds at reset. -/
theorem witness_encoders :
    (∃ t, exec .encRd State.reset = .next t ∧ t.status.err = .ok) ∧
    (∃ t, exec .encWs State.reset = .next t ∧ t.status.err = .ok) ∧
    ∃ t, exec .encWm State.reset = .next t ∧ t.status.err = .ok :=
  ⟨⟨_, rfl, rfl⟩, ⟨_, rfl, rfl⟩, ⟨_, rfl, rfl⟩⟩

/-- ParseRequestFollowsItsTests: 513, 7 and 8 bytes; strict with a wrong and with a right checksum; lenient. -/
theorem witness_decReq :
    (withLen 513).cfg.bufCap < (withLen 513).ib.len.toNat ∧
    (withLen 7).ib.len.toNat ≤ (withLen 7).cfg.bufCap ∧ (withLen 7).ib.len.toNat < 8 ∧
    8 ≤ (withIbStrict [1, 3, 0, 60, 0, 5, 0x45, 0xC6]).ib.len.toNat ∧
    (withIbStrict [1, 3, 0, 60, 0, 5, 0x45, 0xC6]).strict = true ∧
    trailingCrcMatches (withIbStrict [1, 3, 0, 60, 0, 5, 0x45, 0xC6]) 8 = false ∧
    trailingCrcMatches (withIbStrict [1, 3, 0, 60, 0, 5, 0x45, 0xC5]) 8 = true ∧
    (withLen 8).ib.len.toNat ≤ (withLen 8).cfg.bufCap ∧ 8 ≤ (withLen 8).ib.len.toNat ∧ (withLen 8).strict = false := by
  decide +kernel

/-- ParseResponseFailsByItsTests: 513 and 4 bytes; 5 bytes, strict, wrong checksum; one byte too few; an odd count. -/
theorem witness_decRsp_failures :
    (withLen 513).cfg.bufCap < (withLen 513).ib.len.toNat ∧ (withLen 4).ib.len.toNat < 5 ∧
    5 ≤ (withIbStrict [1, 3, 0, 0, 0]).ib.len.toNat ∧ (withIbStrict [1, 3, 0, 0, 0]).strict = true ∧
    trailingCrcMatches (withIbStrict [1, 3, 0, 0, 0]) 5 = false ∧
    (withIb [1, 3, 2, 0, 0, 0]).ib.len.toNat < 3 + (ibByte (withIb [1, 3, 2, 0, 0, 0]) 2).toNat + 2 ∧
    3 + (ibByte (withIb [1, 3, 1, 0, 0, 0]) 2).toNat + 2 ≤ (withIb [1, 3, 1, 0, 0, 0]).ib.len.toNat ∧
    (ibByte (withIb [1, 3, 1, 0, 0, 0]) 2).toNat % 2 = 1 ∧
    (ibByte (withIb [1, 3, 1, 0, 0, 0]) 1).getLsbD 7 = false := by decide +kernel

theorem witness_readable : ResponseReadable (withIb [1, 3, 2, 0, 0, 0]) ∧ ResponseReadable (withIb [1, 3, 1, 0, 0, 0]) :=
  ⟨⟨by decide, by decide, fun h => by cases h⟩, ⟨by decide, by decide, fun h => by cases h⟩⟩

/-- ExceptionResponseIsSurfaced: the shortest frame, strict, with its right checksum; and a normal response. -/
theorem witness_exception :
    ResponseReadable (withIbStrict [1, 0x83, 2, 0xC0, 0xF1]) ∧
    (ibByte (withIbStrict [1, 0x83, 2, 0xC0, 0xF1]) 1).getLsbD 7 = true ∧
    (∃ t, exec .decRsp (withIb [1, 3, 0, 0, 0]) = .next t) ∧ (ibByte (withIb [1, 3, 0, 0, 0]) 1).getLsbD 7 = false :=
  ⟨⟨by decide, by decide, fun _ => by decide +kernel⟩, by decide, ⟨_, rfl⟩, by decide⟩

/-- NormalResponseDeliversItsRegisters: byte count 0 in 5 bytes, and 254 in 259. -/
theorem witness_normal :
    (ResponseReadable (withIb [1, 3, 0, 0, 0]) ∧ NormalResponse (withIb [1, 3, 0, 0, 0])) ∧
    ResponseReadable { withLen 259 with ib := { cells := [(2, 254)], len := 259 } } ∧
    NormalResponse { withLen 259 with ib := { cells := [(2, 254)], len := 259 } } :=
  ⟨⟨⟨by decide, by decide, fun h => by cases h⟩, ⟨by decide, by decide, by decide⟩⟩,
    ⟨by decide, by decide, fun h => by cases h⟩, ⟨by decide, by decide, by decide⟩⟩

/-- LenientResultsIgnoreTheTrailingChecksum: two requests that differ in their last two bytes alone. -/
theorem witness_lenient_pair :
    (withIb [1, 3, 0, 60, 0, 5, 0x45, 0xC5]).strict = false ∧
    (withIb [1, 3, 0, 60, 0, 5, 0x45, 0xC5]).ib.len = (withIb [1, 3, 0, 60, 0, 5, 0, 0]).ib.len ∧
    ∀ i, i + 2 < (withIb [1, 3, 0, 60, 0, 5, 0x45, 0xC5]).ib.len.toNat →
      ibByte (withIb [1, 3, 0, 60, 0, 5, 0x45, 0xC5]) i = ibByte (withIb [1, 3, 0, 60, 0, 5, 0, 0]) i := by
  have h : ∀ i, i < 6 →
      ibByte (withIb [1, 3, 0, 60, 0, 5, 0x45, 0xC5]) i = ibByte (withIb [1, 3, 0, 60, 0, 5, 0, 0]) i := by decide
  exact ⟨by decide, by decide, fun i hi => h i (by
    have e : (withIb [1, 3, 0, 60, 0, 5, 0x45, 0xC5]).ib.len.toNat = 8 := by decide
    omega)⟩

/-- ParsingReadsOnlyItsInput: the same bytes, everything else different. -/
theorem witness_parsing_pair :
    (withIb [1, 3, 0, 0, 0]).strict = ({ withRegs [9] with ib := (withIb [1, 3, 0, 0, 0]).ib } : State).strict ∧
    (withIb [1, 3, 0, 0, 0]).cfg.bufCap = ({ withRegs [9] with ib := (withIb [1, 3, 0, 0, 0]).ib } : State).cfg.bufCap ∧
    (withIb [1, 3, 0, 0, 0]).ib.len = ({ withRegs [9] with ib := (withIb [1, 3, 0, 0, 0]).ib } : State).ib.len ∧
    ∀ i, i < (withIb [1, 3, 0, 0, 0]).ib.len.toNat →
      ibByte (withIb [1, 3, 0, 0, 0]) i = ibByte { withRegs [9] with ib := (withIb [1, 3, 0, 0, 0]).ib } i :=
  ⟨rfl, rfl, rfl, fun _ _ => rfl⟩

/-- ParseVerdictsAgreeWithTheOutcome: strict with a right checksum, and lenient. -/
theorem witness_verdicts :
    (∃ t, exec .decRsp (withIbStrict [1, 0x83, 2, 0xC0, 0xF1]) = .next t ∧ t.status.err = .modbusException) ∧
    (∃ t, exec .decReq (withIbStrict [1, 3, 0, 60, 0, 5, 0x45, 0xC5]) = .next t ∧ t.status.err = .ok) ∧
    (∃ t, exec .decRsp (withLen 5) = .next t) ∧ (withLen 5).strict = false := by
  refine ⟨next_of_seen (f := (·.status.err)) ?_, next_of_seen (f := (·.status.err)) ?_, ⟨_, rfl⟩, rfl⟩ <;>
    decide +kernel

/-- The seven extraction statements: the last legal index, the next one, a reserved scale, positions 7 and 8. -/
theorem witness_extractable :
    Extractable (withRegs [1, 2]) 1 1 1 ∧ Extractable (withRegs [1, 2]) 0 2 1 ∧ Extractable (withRegs [1, 2]) 1 1 0 ∧
    ¬Extractable (withRegs [1, 2]) 2 1 0 ∧ ¬Extractable (withRegs [1, 2]) 1 2 0 ∧ ¬Extractable (withRegs [1, 2]) 0 1 2 ∧
    ¬Extractable State.reset 0 1 0 ∧ (7#4).toNat ≤ 7 ∧ ¬(8#4).toNat ≤ 7 ∧
    fieldOpc 0x00010034#32 = 0x34#8 ∧ fieldB 0x00010034#32 ≠ 0 ∧ fieldOpc 0x00100035#32 = 0x35#8 ∧
    fieldSc 0x00100035#32 ≠ 0 ∧ fieldOpc 0x00100036#32 = 0x36#8 ∧ fieldSc 0x00100036#32 ≠ 0 := by
  unfold Extractable; decide

/-- ExtractionTestsComeInOrder: each clause, at the boundary of its test. -/
theorem witness_extraction_order :
    extOperands (.extU32H 1 1) = some (.u32h, 1, 0, 1) ∧ State.reset.status.rav = false ∧
    (withRegs [1, 2, 3]).status.rav = true ∧ extOperands (.extU16 0 2) = some (.u16, 0, 0, 2) ∧
    extOperands (.extBit 0 8) = some (.bit, 0, 8, 0) ∧
    (withRegs [1, 2]).p.ralen.toNat < 1 + span .u32h ∧ 1 + span .u32h ≤ (withRegs [1, 2, 3]).p.ralen.toNat := by decide

/-- RuleDecodeFollowsItsCases: a blocked state, no rule, an empty register array, and a rule of two descriptors. -/
theorem witness_rule_decode :
    configWf (withTable 0 [1, 2]).cfg = true ∧
    ({ withTable 0 [1, 2] with status := State.reset.status } : State).status.rav = false ∧
    (withTable 7 [1, 2]).status.rav = true ∧
    selectRule (withTable 7 [1, 2]).op.addr (withTable 7 [1, 2]).p.ralen.toNat (withTable 7 [1, 2]).cfg.rules = none ∧
    (withTable 60 []).p.ralen = 0 ∧
    (selectRule (withTable 60 [1, 2, 3, 4]).op.addr (withTable 60 [1, 2, 3, 4]).p.ralen.toNat
      (withTable 60 [1, 2, 3, 4]).cfg.rules).isSome = true := by decide

/-- DecodingIsAFunctionOfItsInputs: two states that differ in everything else, and a decode that answers. -/
theorem witness_decode_pair :
    configWf (withTable 0 [1, 2]).cfg = true ∧
    (∀ i, i < (withTable 0 [1, 2]).p.ralen.toNat →
      raReg (withTable 0 [1, 2]) i = raReg { withTable 0 [1, 2] with crcacc := 0, strict := true } i) ∧
    (∃ t, exec (.rdeDecode 3) (withTable 0 [1, 2]) = .next t) ∧ (extOperands (.extHib 1)).isSome = true ∧
    ∃ t, exec (.extHib 1) (withTable 0 [1, 2]) = .next t :=
  ⟨by decide, fun _ _ => rfl, ⟨_, rfl⟩, rfl, ⟨_, rfl⟩⟩

/-- AppendedAndShadowedRules: a table with a rule appended, an input it selects, one it does not, and a shadowed rule. -/
theorem witness_rule_order :
    rulesWf { Config.default with rules := table ++ [⟨7, 1, 9, []⟩] } = true ∧
    (selectRule 60 3 table).isSome = true ∧ selectRule 7 1 table = none ∧
    rulesWf { Config.default with rules := [] ++ ⟨60, 3, 1, []⟩ :: ([] ++ ⟨60, 5, 2, []⟩ :: []) } = true := by decide

/-- EngineIsBlockedAfterAFailedResponse: a failed parse followed by a frame and an encoder; and a lenient response
with a wrong checksum. -/
theorem witness_blocked :
    (∃ t, exec .decRsp (withLen 4) = .next t ∧ t.status.err ≠ .ok ∧
      ∃ u, execAll [.frameReadReq 1 0 1 0, .encRd] t = .next u) ∧
    (∀ i ∈ [Instr.frameReadReq 1 0 1 0, .encRd], i ≠ .decRsp) ∧ isEngine (.rdeDecode 3) ∧
    (withIb [1, 3, 0, 0, 0]).strict = false ∧ NormalResponse (withIb [1, 3, 0, 0, 0]) ∧
    trailingCrcMatches (withIb [1, 3, 0, 0, 0]) (withIb [1, 3, 0, 0, 0]).ib.len.toNat = false :=
  ⟨⟨_, rfl, by decide, _, rfl⟩, by decide, .inr ⟨_, rfl⟩, rfl, ⟨by decide, by decide, by decide⟩, by decide +kernel⟩

/-- EngineIsBlockedAfterAFailedResponse, over steps: the operand write of a program between DEC.RSP and RDE.DECODE, a
read, an illegal word and arriving bytes after a failed parse. -/
theorem witness_blocked_steps :
    (∃ t, exec .decRsp { withLen 4 with pending := mixedActions } = .next t ∧ t.status.err ≠ .ok ∧
      (∀ a ∈ t.pending.take 5, issuedInstr a ≠ some .decRsp) ∧ ∃ u, runSteps 5 t = .next u ∧ u.op.addr = 60) ∧
    (withPending mixedActions).status.rav = false ∧ ∃ t, step (withPending mixedActions) = .next t :=
  ⟨⟨_, rfl, by decide, by decide +kernel, next_of_seen (f := (·.op.addr)) (by decide +kernel)⟩, rfl, ⟨_, rfl⟩⟩

/-- IllFormedConfigurationNeverLeavesReset: capacities just outside and just inside their ranges, the empty table. -/
theorem witness_configurations :
    configWf { Config.default with bufCap := 262 } = false ∧ configWf { Config.default with bufCap := 65536 } = false ∧
    configWf { Config.default with foCap := 0 } = false ∧ configWf { Config.default with foCap := 256 } = false ∧
    263 ≤ ({ Config.default with bufCap := 263 } : Config).bufCap ∧ Config.default.rules = [] ∧
    (withRegs []).cfg.rules = [] ∧ (withRegs []).status.rav = true := by decide

/-- HostWritesStoreOnlyTheirTarget: the largest value that fits, the smallest that does not, the cells at the bounds. -/
theorem witness_host_writes :
    writeWidth Config.default (.ib 511) = some 8 ∧ 255 < 2 ^ 8 ∧ 2 ^ 8 ≤ 256 ∧
    writeWidth Config.default (.vb 126) = some 16 ∧ writeWidth Config.default .ctrl = some 32 ∧
    writeWidth Config.default (.ib 512) = none ∧ writeWidth Config.default (.vb 127) = none ∧
    writeWidth Config.default .status = none ∧ 0xFFFFFFFF < 2 ^ 32 ∧ 2 ^ 32 ≤ 0x100000000 := by decide

/-- HostReadsChangeNothing: an admitted read, and reads at the bounds. -/
theorem witness_host_reads :
    readTarget State.reset .crcacc = some (.num 0xFFFF) ∧ readTarget State.reset (.ib 511) = some (.num 0) ∧
    readTarget State.reset (.ib 512) = none ∧ readTarget (withRegs [9]) (.ra 0) = some (.num 9) ∧
    readTarget (withRegs [9]) (.ra 1) = none ∧ readTarget State.reset .cmd = none := by decide

/-- HostReadsChangeNothing: the last readable cell of each space, and the three tags. -/
theorem witness_read_values :
    readTarget State.reset (.vb 126) = some (.num 0) ∧
    readTarget (storeFrame [5, 6] State.reset) (.ob 1) = some (.num 6) ∧
    readTarget (storeFrame [5, 6] State.reset) (.ob 2) = none ∧
    readTarget (storeBlock 3 ⟨60, 1, 1, []⟩ [⟨7, .dec1, 9⟩] State.reset) (.fo 0) = some (.entry ⟨7, .dec1, 9⟩) ∧
    readTarget (storeBlock 3 ⟨60, 1, 1, []⟩ [⟨7, .dec1, 9⟩] State.reset) (.fo 1) = none ∧
    readTarget State.reset .xrT = some (.num 0) ∧
    readTarget { State.reset with xr := { t := .dec1, m := 0 } } .xrT = some (.num 1) ∧
    readTarget { State.reset with xr := { t := .bool, m := 1 } } .xrT = some (.num 2) := by decide

/-- FramesArriveInTheInputBuffer: frames that just fit and just do not fit, the smallest `BUF_CAP`, 127 values. -/
theorem witness_frames :
    (Instr.frameExceptionRsp 1 0x83#8 2 (List.replicate 507 0) 0).isCommand = false ∧
    (encode (.frameExceptionRsp 1 0x83#8 2 (List.replicate 507 0) 0)).bytes.length ≤ State.reset.cfg.bufCap ∧
    State.reset.cfg.bufCap < (encode (.frameExceptionRsp 1 0x83#8 2 (List.replicate 508 0) 0)).bytes.length ∧
    configWf { Config.default with bufCap := 263 } = true ∧ (List.replicate 127 (0 : Reg16)).length ≤ 127 := by
  refine ⟨rfl, ?_, ?_, by decide, by simp only [List.length_replicate]; decide⟩ <;> decide +kernel

/-- ArrivedRequestsAreParsed and ArrivedResponsesAreParsed: each of the five frames arrives in lenient policy. -/
theorem witness_arrivals :
    State.reset.strict = false ∧ (∃ t, exec (.frameReadReq 1 60 5 0) State.reset = .next t) ∧
    (∃ t, exec (.frameWriteSingleReq 1 16 4 0) State.reset = .next t) ∧
    (∃ t, exec (.frameWriteMultipleReq 1 0 [2] 0) State.reset = .next t) ∧
    (∃ t, exec (.frameNormalRsp 1 3 [7] [9] 0) State.reset = .next t) ∧
    (Instr.frameNormalRsp 1 3 [7] [9] 0).wf = true ∧
    (∃ t, exec (.frameExceptionRsp 1 0x83#8 2 [9] 0) State.reset = .next t) ∧
    (Instr.frameExceptionRsp 1 0x83#8 2 [9] 0).wf = true :=
  ⟨rfl, ⟨_, rfl⟩, ⟨_, rfl⟩, ⟨_, rfl⟩, ⟨_, rfl⟩, by decide, ⟨_, rfl⟩, by decide⟩

/-- PseudoInstructionsAreTheirExpansions: a full `IB`, a full `VB`, a full `OB`. -/
theorem witness_expansions :
    configWf State.reset.cfg = true ∧ (List.replicate 512 (0 : Byte)).length ≤ State.reset.cfg.bufCap ∧
    (List.replicate 127 (0 : Reg16)).length ≤ 127 ∧
    ({ State.reset with ob := { cells := [], len := 263#16 } } : State).ob.len.toNat ≤ 263 ∧
    (Instr.frameReadReq 1 60 5 0).isCommand = false ∧
    (encode (.frameReadReq 1 60 5 0)).bytes.length ≤ State.reset.cfg.bufCap := by
  simp only [List.length_replicate]; decide

/-- EveryStepKeepsTheInvariant, InvariantHoldsAtReset, ConfigurationNeverChanges: a state with a command pending that
meets the invariant, and its step. -/
theorem witness_invariant :
    Invariant (withPending [.issue 0x00000010#32]) ∧ configWf Config.default = true ∧
    ∃ t, step (withPending [.issue 0x00000010#32]) = .next t := by
  refine ⟨?_, by decide, ⟨_, rfl⟩⟩
  constructor
  case fields =>
    have h : ∀ i, foEntry (withPending [.issue 0x00000010#32]) i = zeroEntry := fun _ => rfl
    exact fun i => by rw [h]; exact ⟨by decide, by decide, fun h => by cases h⟩
  case extracted => exact ⟨by decide, by decide, fun h => by cases h⟩
  all_goals decide

/-- EachResultHasItsWriters and EveryCommandCompletesWithAListedOutcome: a command and a frame that answer. -/
theorem witness_commands :
    Instr.sreset.isCommand = true ∧ configWf (withTable 0 [1, 2]).cfg = true ∧
    (∃ t, exec .sreset (withTable 0 [1, 2]) = .next t) ∧ (∃ t, exec (.rdeDecode 3) (withTable 0 [1, 2]) = .next t) ∧
    (Instr.frameReadReq 1 60 5 0).isCommand = false ∧ ∃ t, exec (.frameReadReq 1 60 5 0) State.reset = .next t :=
  ⟨rfl, by decide, ⟨_, rfl⟩, ⟨_, rfl⟩, rfl, ⟨_, rfl⟩⟩

end Sys2Proof.Tests
end

