-- ==== Sys2Proof/Proofs/Checksum.lean ====
section
/-! PROOFS. The Checksum Unit (spec/40_checksum.md R100, R102 to R104): the shift step as integer arithmetic, what the
three commands answer, and the frame that all three share. -/

namespace Sys2Proof.Checksum

open Sys2Proof.Machine Sys2Proof.Laws

/-! ### The checksum function (R100, R101) -/

/-- The tested bit is the parity, the logical shift is the division by two. -/
theorem crcShift_toNat (a : Reg16) :
    (crcShift a).toNat = if a.toNat % 2 = 1 then (a.toNat / 2) ^^^ 0xA001 else a.toNat / 2 := by
  have hbit : a.getLsbD 0 = decide (a.toNat % 2 = 1) := by
    rw [BitVec.getLsbD, Nat.testBit_zero]
  have hshift : (a >>> 1).toNat = a.toNat / 2 := by
    rw [BitVec.toNat_ushiftRight, Nat.shiftRight_eq_div_pow, pow_one]
  by_cases h : a.toNat % 2 = 1
  · simp only [crcShift, hbit, h, decide_true, if_true, BitVec.toNat_xor, hshift]
    rfl
  · simp only [crcShift, hbit, h, decide_false, if_false, Bool.false_eq_true, hshift]

theorem crcShifts_eq_iterate (n : Nat) (a : Reg16) : crcShifts n a = crcShift^[n] a := by
  induction n generalizing a with
  | zero => rfl
  | succ n ih => rw [crcShifts, ih, Function.iterate_succ_apply]

@[simp] theorem crc16_nil : crc16 [] = 0xFFFF#16 := rfl

/-! ### The words of the three commands (R81) -/

/-- The word of `CRC.BYTE b` as its rule writes it. -/
def crcByteWord (b : Byte) : CmdWord := 0x00000002#32 ||| (b.setWidth 32 <<< 8)

theorem crcByteWord_masked (b : Byte) : crcByteWord b &&& 0xFFFF00FF#32 = 0x00000002#32 := by
  have hfield : (b.setWidth 32 <<< 8) &&& 0xFFFF00FF#32 = 0#32 := by
    ext i hi
    interval_cases i <;> simp
  rw [crcByteWord, BitVec.and_or_distrib_right, hfield]
  rfl

theorem fieldA_crcByteWord (b : Byte) : fieldA (crcByteWord b) = b := by
  ext i hi
  interval_cases i <;> simp [fieldA, crcByteWord]

theorem crcByteWord_ne_crcInit (b : Byte) : crcByteWord b ≠ 0x00000001#32 := by
  intro h
  have hmasked := crcByteWord_masked b
  rw [h] at hmasked
  exact absurd hmasked (by decide)

/-- The word misses the row of `CRC.INIT`, which tests every bit, and meets the next one. -/
theorem decodeCommand_crcByteWord (b : Byte) : decodeCommand (crcByteWord b) = .instr (.crcByte b) := by
  have hinit : crcByteWord b &&& 0xFFFFFFFF#32 ≠ 0x00000001#32 := by
    rw [show (0xFFFFFFFF#32 : CmdWord) = BitVec.allOnes 32 from rfl, BitVec.and_allOnes]
    exact crcByteWord_ne_crcInit b
  simp [decodeCommand, opcodeMap, OpRow.holds, hinit, crcByteWord_masked, fieldA_crcByteWord]

/-! ### What the commands answer (R102 to R104) -/

/-- What every checksum command leaves: the given value in `CRCACC`, the given outcome in `STATUS.ERR`. -/
def withChecksum (c : Reg16) (e : ErrCode) (s : State) : State := setErr e { s with crcacc := c }

@[simp] theorem withChecksum_crcacc (c : Reg16) (e : ErrCode) (s : State) : (withChecksum c e s).crcacc = c := rfl

@[simp] theorem withChecksum_err (c : Reg16) (e : ErrCode) (s : State) : (withChecksum c e s).status.err = e := rfl

@[simp] theorem withChecksum_withChecksum (c c' : Reg16) (e e' : ErrCode) (s : State) :
    withChecksum c e (withChecksum c' e' s) = withChecksum c e s := rfl

/-- The frame of the three commands. -/
theorem onlyChecksum_withChecksum (c : Reg16) (e : ErrCode) (s : State) : OnlyChecksum s (withChecksum c e s) := by
  refine ⟨?host, ?inputs, ?output, ?request, ?response, ?extraction, ?block, ?flags⟩
  case host => exact ⟨rfl, rfl, rfl⟩
  case inputs => exact ⟨rfl, rfl, fun _ => rfl, rfl, fun _ => rfl, rfl⟩
  case output => exact ⟨rfl, fun _ => rfl⟩
  case request => rfl
  case response => exact ⟨rfl, rfl, rfl, rfl, rfl, fun _ => rfl⟩
  case extraction => rfl
  case block => exact ⟨rfl, rfl, rfl, rfl, fun _ => rfl⟩
  case flags => exact ⟨rfl, rfl, rfl⟩

theorem exec_crcInit (s : State) : exec .crcInit s = .next (withChecksum 0xFFFF#16 .ok s) := rfl

theorem exec_crcByte (b : Byte) (s : State) :
    exec (.crcByte b) s = .next (withChecksum (crcStep s.crcacc b) .ok s) := rfl

theorem exec_crcBuf_of_overlong {s : State} (h : s.cfg.bufCap < s.ib.len.toNat) :
    exec .crcBuf s = .next (withChecksum 0xFFFF#16 .bufferRange s) := by
  obtain ⟨-, he⟩ | ⟨hle, -⟩ := execCrcBuf_cases s
  · exact he
  · omega

theorem exec_crcBuf_of_fits {s : State} (h : s.ib.len.toNat ≤ s.cfg.bufCap) :
    exec .crcBuf s =
      .next (withChecksum (crc16 ((List.range s.ib.len.toNat).map (ibByte s))) .ok s) := by
  obtain ⟨hlt, -⟩ | ⟨-, he⟩ := execCrcBuf_cases s
  · omega
  · rw [← ibSeq_eq_map]
    exact he

/-! ### The obligations -/

/-- Settles O13: `IBLEN` decides between the failure clause and the checksum of the buffered bytes. -/
theorem crcBufChecksumsTheInputBuffer : Obligations.CrcBufChecksumsTheInputBuffer := by
  refine ⟨by decide, fun s => ⟨fun hlong => ?overlong, fun hfits => ?fits⟩⟩
  case overlong =>
    exact ⟨_, exec_crcBuf_of_overlong hlong, withChecksum_crcacc .., withChecksum_err ..,
      onlyChecksum_withChecksum _ _ s⟩
  case fits =>
    refine ⟨_, exec_crcBuf_of_fits hfits, withChecksum_crcacc .., withChecksum_err ..,
      onlyChecksum_withChecksum _ _ s, fun hempty => ?_⟩
    simp [hempty]

/-- Settles O8, by the value of one shift step and by reading the eight of them as an iterate. -/
theorem crcStepIsEightShiftsByItsArithmetic : Obligations.CrcStepIsEightShiftsByItsArithmetic :=
  ⟨crcShift_toNat, fun a b => crcShifts_eq_iterate 8 (a ^^^ b.setWidth 16)⟩

/-- Settles O11: the second `CRC.INIT` writes what the first one wrote. -/
theorem crcInitStartsAStream : Obligations.CrcInitStartsAStream := by
  refine ⟨by decide, fun s =>
    ⟨_, exec_crcInit s, withChecksum_crcacc .., crc16_nil.symm, withChecksum_err ..,
      onlyChecksum_withChecksum _ _ s, ?again⟩⟩
  case again => rw [exec_crcInit, withChecksum_withChecksum]

/-- Settles O12: the word of `b` reads `b` back from field A, and the command steps whatever `CRCACC` holds. -/
theorem crcByteFeedsTheStream : Obligations.CrcByteFeedsTheStream :=
  ⟨decodeCommand_crcByteWord, fun b s =>
    ⟨_, exec_crcByte b s, withChecksum_crcacc .., withChecksum_err .., onlyChecksum_withChecksum _ _ s⟩⟩

end Sys2Proof.Checksum
end

section
/-! PROOFS. The request parse of the frame decoder (spec/42_frame_decoder.md R120, R121, R126): the CRC verdict on
single bytes, what `DEC.REQ` answers by the first test that fails, and the frame of all its outcomes. -/

namespace Sys2Proof.RequestParse

open Sys2Proof.Machine Sys2Proof.Laws

/-! ### The CRC verdict and its policy (R120, R126) -/

theorem crcOk_eq_trailingCrcMatches (s : State) (n : Nat) : crcOk s n = trailingCrcMatches s n := by
  rw [crcOk, trailingCrcMatches, ibSeq_eq_map]

theorem crcRefused_eq_true_iff (s : State) (n : Nat) :
    crcRefused s n = true ↔ s.strict = true ∧ trailingCrcMatches s n = false := by
  simp [crcRefused, crcOk_eq_trailingCrcMatches]

theorem crcRefused_eq_false_iff (s : State) (n : Nat) :
    crcRefused s n = false ↔ (s.strict = true → trailingCrcMatches s n = true) := by
  simp [crcRefused, crcOk_eq_trailingCrcMatches]

/-! ### What `DEC.REQ` leaves unchanged (R121, R183) -/

/-- What every outcome of `DEC.REQ` leaves: the given `Q_*`, `CRCOK` and `STATUS.ERR`. -/
def withRequest (r : RequestResult) (ok : Bool) (e : ErrCode) (s : State) : State :=
  setErr e { s with q := r, status := { s.status with crcok := ok } }

theorem setErr_clearReq (e : ErrCode) (s : State) :
    setErr e (clearReq s) = withRequest { unit := 0, fc := 0, addr := 0, qty := 0 } false e s := rfl

theorem setErr_acceptRequest (e : ErrCode) (s : State) :
    setErr e (acceptRequest s) =
      withRequest { unit := ibByte s 0, fc := ibByte s 1, addr := be16 (ibByte s 2) (ibByte s 3),
                    qty := be16 (ibByte s 4) (ibByte s 5) } (trailingCrcMatches s s.ib.len.toNat) e s := by
  rw [← crcOk_eq_trailingCrcMatches]
  rfl

/-- The frame of the command, whatever its outcome. -/
theorem onlyRequest_withRequest (r : RequestResult) (ok : Bool) (e : ErrCode) (s : State) :
    OnlyRequest s (withRequest r ok e s) := by
  refine ⟨?host, ?inputs, ?checksum, ?output, ?response, ?extraction, ?block, ?isexc, ?rav⟩
  case host => exact ⟨rfl, rfl, rfl⟩
  case inputs => exact ⟨rfl, rfl, fun _ => rfl, rfl, fun _ => rfl, rfl⟩
  case checksum => rfl
  case output => exact ⟨rfl, fun _ => rfl⟩
  case response => exact ⟨rfl, rfl, rfl, rfl, rfl, fun _ => rfl⟩
  case extraction => rfl
  case block => exact ⟨rfl, rfl, rfl, rfl, fun _ => rfl⟩
  case isexc => rfl
  case rav => rfl

theorem requestFailed_clearReq (e : ErrCode) (s : State) : RequestFailed s (setErr e (clearReq s)) e := by
  rw [setErr_clearReq]
  exact ⟨rfl, rfl, rfl, onlyRequest_withRequest ..⟩

/-! ### What `DEC.REQ` answers, by the first test that fails (R121, R184) -/

section answers

variable {s : State}

theorem exec_decReq_of_overlong (hlong : s.cfg.bufCap < s.ib.len.toNat) :
    exec .decReq s = .next (setErr .bufferRange (clearReq s)) := by
  obtain ⟨-, he⟩ | ⟨hfits, -⟩ | ⟨hfits, -⟩ | ⟨hfits, -⟩ := execDecReq_cases s
  · exact he
  all_goals omega

theorem exec_decReq_of_short (hfits : s.ib.len.toNat ≤ s.cfg.bufCap) (hshort : s.ib.len.toNat < 8) :
    exec .decReq s = .next (setErr .malformedRequest (clearReq s)) := by
  obtain ⟨hlong, -⟩ | ⟨-, -, he⟩ | ⟨-, hlen, -⟩ | ⟨-, hlen, -⟩ := execDecReq_cases s
  case inr.inl => exact he
  all_goals omega

theorem exec_decReq_of_refused (hfits : s.ib.len.toNat ≤ s.cfg.bufCap) (hlen : 8 ≤ s.ib.len.toNat)
    (hrefused : crcRefused s s.ib.len.toNat = true) :
    exec .decReq s = .next (setErr .crcMismatch (clearReq s)) := by
  obtain ⟨hlong, -⟩ | ⟨-, hshort, -⟩ | ⟨-, -, -, he⟩ | ⟨-, -, haccepted, -⟩ := execDecReq_cases s
  · omega
  · omega
  · exact he
  · rw [hrefused] at haccepted
    cases haccepted

theorem exec_decReq_of_accepted (hfits : s.ib.len.toNat ≤ s.cfg.bufCap) (hlen : 8 ≤ s.ib.len.toNat)
    (haccepted : crcRefused s s.ib.len.toNat = false) :
    exec .decReq s = .next (setErr .ok (acceptRequest s)) := by
  obtain ⟨hlong, -⟩ | ⟨-, hshort, -⟩ | ⟨-, -, hrefused, -⟩ | ⟨-, -, -, he⟩ := execDecReq_cases s
  · omega
  · omega
  · rw [haccepted] at hrefused
    cases hrefused
  · exact he

end answers

/-! ### The obligation -/

/-- Settles O21: each clause is the answer of `DEC.REQ` at the first test that fails; the policy's test is read as
one on the bytes presented. -/
theorem parseRequestFollowsItsTests : Obligations.ParseRequestFollowsItsTests := by
  refine ⟨by decide, fun s => ⟨fun hlong => ?overlong, fun hfits hshort => ?short,
    fun hfits hlen hstrict hwrong => ?mismatch, fun hfits hlen hpolicy => ?accepted⟩⟩
  case overlong => exact ⟨_, exec_decReq_of_overlong hlong, requestFailed_clearReq _ s⟩
  case short => exact ⟨_, exec_decReq_of_short hfits hshort, requestFailed_clearReq _ s⟩
  case mismatch =>
    have hrefused := (crcRefused_eq_true_iff s _).mpr ⟨hstrict, hwrong⟩
    exact ⟨_, exec_decReq_of_refused hfits hlen hrefused, requestFailed_clearReq _ s⟩
  case accepted =>
    have haccepted := (crcRefused_eq_false_iff s _).mpr hpolicy
    refine ⟨_, exec_decReq_of_accepted hfits hlen haccepted, ?_⟩
    rw [setErr_acceptRequest]
    exact ⟨rfl, rfl, rfl, onlyRequest_withRequest ..⟩

end Sys2Proof.RequestParse
end

section
/-! PROOFS. Command words (spec/30_encoding.md R80 to R82): the fields of a word under a mask and of an assembled
word, and the decoder answering by the one row of R81 that has the word's opcode. -/

namespace Sys2Proof.CommandWords

/-! ### The fields of R80 under a mask -/

theorem fieldOpc_and (v w : CmdWord) : fieldOpc (v &&& w) = fieldOpc v &&& fieldOpc w := BitVec.setWidth_and

theorem fieldB_and (v w : CmdWord) : fieldB (v &&& w) = fieldB v &&& fieldB w := by
  simp only [fieldB, BitVec.ushiftRight_and_distrib, BitVec.setWidth_and]

theorem fieldSc_and (v w : CmdWord) : fieldSc (v &&& w) = fieldSc v &&& fieldSc w := by
  simp only [fieldSc, BitVec.ushiftRight_and_distrib, BitVec.setWidth_and]

/-- A field that a row's mask tests whole is, in a word the row holds of, the row's own. -/
theorem field_of_holds {n : Nat} {field : CmdWord → BitVec n} {r : OpRow} {w : CmdWord}
    (hand : ∀ x y, field (x &&& y) = field x &&& field y) (hmask : field r.mask = BitVec.allOnes n)
    (hw : r.holds w = true) : field w = field r.pattern := by
  have hpattern : w &&& r.mask = r.pattern := of_decide_eq_true hw
  calc field w = field w &&& field r.mask := by rw [hmask, BitVec.and_allOnes]
    _ = field r.pattern := by rw [← hand, hpattern]

/-! ### The word assembled from its fields -/

section commandWord

variable (opc a : Byte) (b : BitVec 4) (sc : BitVec 2)

@[simp] theorem fieldOpc_commandWord : fieldOpc (commandWord opc a b sc) = opc := by
  ext i hi
  interval_cases i <;> simp [fieldOpc, commandWord]

@[simp] theorem fieldA_commandWord : fieldA (commandWord opc a b sc) = a := by
  ext i hi
  interval_cases i <;> simp [fieldA, commandWord]

@[simp] theorem fieldB_commandWord : fieldB (commandWord opc a b sc) = b := by
  ext i hi
  interval_cases i <;> simp [fieldB, commandWord]

@[simp] theorem fieldSc_commandWord : fieldSc (commandWord opc a b sc) = sc := by
  ext i hi
  interval_cases i <;> simp [fieldSc, commandWord]

/-- `RSV` is zero in the word, so a mask acts on the four fields alone. -/
theorem commandWord_and (m : CmdWord) :
    commandWord opc a b sc &&& m =
      commandWord (opc &&& fieldOpc m) (a &&& fieldA m) (b &&& fieldB m) (sc &&& fieldSc m) := by
  ext i hi
  interval_cases i <;> simp [fieldOpc, fieldA, fieldB, fieldSc, commandWord]

end commandWord

/-! ### The decoder answers by the row of the word's opcode (R81, R82, R173) -/

theorem opcodeMap_tests_opc : ∀ r ∈ opcodeMap, fieldOpc r.mask = BitVec.allOnes 8 := by decide

/-- Every row has an opcode of its own. -/
theorem opcodeMap_opc_nodup : (opcodeMap.map fun r => fieldOpc r.pattern).Nodup := by decide

theorem eq_row_of_holds {r r' : OpRow} {w : CmdWord} (hr : r ∈ opcodeMap) (hopc : fieldOpc w = fieldOpc r.pattern)
    (hr' : r' ∈ opcodeMap) (hw : r'.holds w = true) : r' = r := by
  have hopc' := field_of_holds fieldOpc_and (opcodeMap_tests_opc r' hr') hw
  exact List.inj_on_of_nodup_map opcodeMap_opc_nodup hr' hr (hopc'.symm.trans hopc)

theorem decodeCommand_of_holds {r : OpRow} {w : CmdWord} (hr : r ∈ opcodeMap) (hw : r.holds w = true) :
    decodeCommand w = .instr (r.build w) := by
  have hopc := field_of_holds fieldOpc_and (opcodeMap_tests_opc r hr) hw
  have hfind : opcodeMap.find? (fun q => q.holds w) = some r := by
    cases hq : opcodeMap.find? (fun q => q.holds w) with
    | none => exact absurd hw (List.find?_eq_none.mp hq r hr)
    | some q =>
      have hholds : q.holds w = true := List.find?_some (p := fun q => OpRow.holds q w) hq
      rw [eq_row_of_holds hr hopc (List.mem_of_find?_eq_some hq) hholds]
  simp only [decodeCommand, hfind]

theorem decodeCommand_of_not_holds {r : OpRow} {w : CmdWord} (hr : r ∈ opcodeMap)
    (hopc : fieldOpc w = fieldOpc r.pattern) (hw : r.holds w = false) : ∃ e, decodeCommand w = .rejected e := by
  have hfind : opcodeMap.find? (fun q => q.holds w) = none := by
    refine List.find?_eq_none.mpr fun q hq hholds => ?_
    rw [eq_row_of_holds hr hopc hq hholds, hw] at hholds
    cases hholds
  exact ⟨rejectReason w, by simp only [decodeCommand, hfind]⟩

/-- A word with a nonzero field that its row tests and has at zero is illegal. -/
theorem decodeCommand_of_unused_field {n : Nat} {field : CmdWord → BitVec n} {r : OpRow} {w : CmdWord}
    (hr : r ∈ opcodeMap) (hopc : fieldOpc w = fieldOpc r.pattern)
    (hand : ∀ x y, field (x &&& y) = field x &&& field y) (hmask : field r.mask = BitVec.allOnes n)
    (hzero : field r.pattern = 0) (hw : field w ≠ 0) : ∃ e, decodeCommand w = .rejected e := by
  refine decodeCommand_of_not_holds hr hopc (Bool.eq_false_iff.mpr fun hholds => hw ?_)
  rw [field_of_holds hand hmask hholds, hzero]

/-- A word with `RSV = 0` decodes by the row of its opcode when each field is free in the row or zero in the word. -/
theorem decodeCommand_commandWord {r : OpRow} {opc a : Byte} {b : BitVec 4} {sc : BitVec 2} (hr : r ∈ opcodeMap)
    (hpattern : r.pattern = commandWord opc 0 0 0) (ha : fieldA r.mask = 0 ∨ a = 0) (hb : fieldB r.mask = 0 ∨ b = 0)
    (hsc : fieldSc r.mask = 0 ∨ sc = 0) :
    decodeCommand (commandWord opc a b sc) = .instr (r.build (commandWord opc a b sc)) := by
  have hmasked {n : Nat} {x m : BitVec n} (h : m = 0 ∨ x = 0) : x &&& m = 0 := by
    obtain rfl | rfl := h <;> simp
  refine decodeCommand_of_holds hr (decide_eq_true ?_)
  rw [commandWord_and, opcodeMap_tests_opc r hr, BitVec.and_allOnes, hmasked ha, hmasked hb, hmasked hsc, hpattern]

/-! ### Rows that use field A, alone or with one more field -/

/-- A row with operands in `A` and `SC`. -/
def scaledRow (opc : Byte) (build : Byte → BitVec 2 → Instr) : OpRow :=
  ⟨0xFFCF00FF#32, commandWord opc 0 0 0, fun w => build (fieldA w) (fieldSc w)⟩

/-- A row with an operand in `A`. -/
def byteRow (opc : Byte) (build : Byte → Instr) : OpRow :=
  ⟨0xFFFF00FF#32, commandWord opc 0 0 0, fun w => build (fieldA w)⟩

/-- A row with operands in `A` and `B`. -/
def positionRow (opc : Byte) (build : Byte → BitVec 4 → Instr) : OpRow :=
  ⟨0xFFF000FF#32, commandWord opc 0 0 0, fun w => build (fieldA w) (fieldB w)⟩

theorem decodeCommand_scaled {opc : Byte} {p : CmdWord} {build : Byte → BitVec 2 → Instr}
    (hr : scaledRow opc build ∈ opcodeMap) (hp : opc.setWidth 32 = p) (a : Byte) (sc : BitVec 2) :
    decodeCommand (p ||| (a.setWidth 32 <<< 8) ||| (sc.setWidth 32 <<< 20)) = .instr (build a sc) := by
  subst hp
  have hword : commandWord opc a 0 sc = opc.setWidth 32 ||| (a.setWidth 32 <<< 8) ||| (sc.setWidth 32 <<< 20) := by
    simp [commandWord]
  have hdecode := decodeCommand_commandWord (a := a) (b := 0) (sc := sc) hr rfl
    (.inl (by decide : fieldA 0xFFCF00FF#32 = 0)) (.inr rfl) (.inl (by decide : fieldSc 0xFFCF00FF#32 = 0))
  rw [← hword]
  simpa only [scaledRow, fieldA_commandWord, fieldSc_commandWord] using hdecode

theorem decodeCommand_byte {opc : Byte} {p : CmdWord} {build : Byte → Instr} (hr : byteRow opc build ∈ opcodeMap)
    (hp : opc.setWidth 32 = p) (a : Byte) :
    decodeCommand (p ||| (a.setWidth 32 <<< 8)) = .instr (build a) := by
  subst hp
  have hword : commandWord opc a 0 0 = opc.setWidth 32 ||| (a.setWidth 32 <<< 8) := by simp [commandWord]
  have hdecode := decodeCommand_commandWord (a := a) (b := 0) (sc := 0) hr rfl
    (.inl (by decide : fieldA 0xFFFF00FF#32 = 0)) (.inr rfl) (.inr rfl)
  rw [← hword]
  simpa only [byteRow, fieldA_commandWord] using hdecode

theorem decodeCommand_position {opc : Byte} {p : CmdWord} {build : Byte → BitVec 4 → Instr}
    (hr : positionRow opc build ∈ opcodeMap) (hp : opc.setWidth 32 = p) (a : Byte) (b : BitVec 4) :
    decodeCommand (p ||| (a.setWidth 32 <<< 8) ||| (b.setWidth 32 <<< 16)) = .instr (build a b) := by
  subst hp
  have hword : commandWord opc a b 0 = opc.setWidth 32 ||| (a.setWidth 32 <<< 8) ||| (b.setWidth 32 <<< 16) := by
    simp [commandWord]
  have hdecode := decodeCommand_commandWord (a := a) (b := b) (sc := 0) hr rfl
    (.inl (by decide : fieldA 0xFFF000FF#32 = 0)) (.inl (by decide : fieldB 0xFFF000FF#32 = 0)) (.inr rfl)
  rw [← hword]
  simpa only [positionRow, fieldA_commandWord, fieldB_commandWord] using hdecode

/-- A word of a row with an operand in `A` alone is illegal with a nonzero `SC` or `B`. -/
theorem decodeCommand_byte_rejects {opc : Byte} {build : Byte → Instr} (hr : byteRow opc build ∈ opcodeMap)
    {w : CmdWord} (hopc : fieldOpc w = opc) (hw : fieldSc w ≠ 0 ∨ fieldB w ≠ 0) :
    ∃ e, decodeCommand w = .rejected e := by
  have hopc' := hopc.trans (fieldOpc_commandWord opc 0 0 0).symm
  obtain hsc | hb := hw
  · exact decodeCommand_of_unused_field hr hopc' fieldSc_and
      (by decide : fieldSc 0xFFFF00FF#32 = _) (fieldSc_commandWord ..) hsc
  · exact decodeCommand_of_unused_field hr hopc' fieldB_and
      (by decide : fieldB 0xFFFF00FF#32 = _) (fieldB_commandWord ..) hb

/-- A word of a row with operands in `A` and `B` is illegal with a nonzero `SC`. -/
theorem decodeCommand_position_rejects {opc : Byte} {build : Byte → BitVec 4 → Instr}
    (hr : positionRow opc build ∈ opcodeMap) {w : CmdWord} (hopc : fieldOpc w = opc) (hsc : fieldSc w ≠ 0) :
    ∃ e, decodeCommand w = .rejected e :=
  decodeCommand_of_unused_field hr (hopc.trans (fieldOpc_commandWord opc 0 0 0).symm) fieldSc_and
    (by decide : fieldSc 0xFFF000FF#32 = _) (fieldSc_commandWord ..) hsc

end Sys2Proof.CommandWords
end

section
/-! PROOFS. Rule selection (spec/43_register_engine.md R150), by reading `select` as a search of the table. -/

namespace Sys2Proof.RuleSelection

open Sys2Proof.Machine

theorem selectRule_eq_find? (addr : Reg16) (n : Nat) (rs : List Rule) :
    selectRule addr n rs = rs.find? fun r => decide (r.addr = addr ∧ r.minCount ≤ n) := by
  induction rs with
  | nil => rfl
  | cons r rs ih =>
    by_cases hr : r.addr = addr ∧ r.minCount ≤ n
    · simp [selectRule, hr]
    · simp [selectRule, hr, ih]

/-- Settles O38: the search stops at the first rule that matches, with no match in the part of the table before it. -/
theorem selectionIsTheFirstMatch : Obligations.SelectionIsTheFirstMatch := by
  refine ⟨fun addr n rs r => ?first, fun addr n rs => ?none⟩
  case first =>
    simp only [selectRule_eq_find?, List.find?_eq_some_iff_append, decide_eq_true_eq, Bool.not_eq_true',
      decide_eq_false_iff_not]
    constructor
    · rintro ⟨⟨haddr, hcount⟩, pre, post, hrs, hpre⟩
      exact ⟨pre, post, hrs, haddr, hcount, hpre⟩
    · rintro ⟨pre, post, hrs, haddr, hcount, hpre⟩
      exact ⟨⟨haddr, hcount⟩, pre, post, hrs, hpre⟩
  case none => simp only [selectRule_eq_find?, List.find?_eq_none, decide_eq_true_eq]

end Sys2Proof.RuleSelection
end

section
/-! PROOFS. The seven extraction commands (spec/43_register_engine.md R141 to R148): the integers that the extraction
function reads off the register array, what a command answers by whether its tests pass, and the frame of all its
outcomes. -/

namespace Sys2Proof.Extraction

open Sys2Proof.Machine Sys2Proof.Laws Sys2Proof.CommandWords

/-! ### The extraction function in exact integers (R140, R149) -/

/-- Zero extension to a mantissa keeps the unsigned value. -/
theorem toInt_setWidth_mantissa {n : Nat} (x : BitVec n) (hn : n < 64) : (x.setWidth 64).toInt = (x.toNat : Int) := by
  have hx : (x.setWidth 64).toNat = x.toNat := BitVec.toNat_setWidth_of_le hn.le
  have hlt : 2 * x.toNat < 2 ^ 64 :=
    calc 2 * x.toNat < 2 * 2 ^ n := by have := x.isLt; omega
      _ = 2 ^ (n + 1) := by rw [pow_succ, mul_comm]
      _ ≤ 2 ^ 64 := Nat.pow_le_pow_right (by decide) hn
  rw [BitVec.toInt_eq_toNat_of_lt (hx ▸ hlt), hx]

theorem toInt_word32 (h l : Reg16) : (word32 h l).toInt = 65536 * (h.toNat : Int) + (l.toNat : Int) := by
  have hh := h.isLt
  have hl := l.isLt
  have hnat : (word32 h l).toNat = 65536 * h.toNat + l.toNat := by
    have hshift : h.toNat <<< 16 = 65536 * h.toNat := by rw [Nat.shiftLeft_eq, mul_comm]
    have hfits : 65536 * h.toNat % 2 ^ 64 = 65536 * h.toNat := Nat.mod_eq_of_lt (by omega)
    rw [word32, BitVec.toNat_or, BitVec.toNat_shiftLeft, BitVec.toNat_setWidth_of_le (by decide),
      BitVec.toNat_setWidth_of_le (by decide), hshift, hfits, ← hshift, Nat.shiftLeft_add_eq_or_of_lt hl]
  rw [BitVec.toInt_eq_toNat_of_lt (by omega), hnat]
  push_cast
  rfl

theorem toNat_hi8 (r : Reg16) : (hi8 r).toNat = r.toNat / 256 := by
  have := r.isLt
  rw [hi8, BitVec.toNat_setWidth, BitVec.toNat_ushiftRight, Nat.shiftRight_eq_div_pow]
  omega

theorem toNat_lo8 (r : Reg16) : (lo8 r).toNat = r.toNat % 256 := BitVec.toNat_setWidth ..

@[simp] theorem scale_m (m : Mantissa) (sc : Nat) : (scale m sc).m = m := by
  unfold scale
  split <;> rfl

theorem scale_t (m : Mantissa) {sc : Nat} (hsc : sc ≤ 1) : (scale m sc).t = scaleTag sc := by
  obtain rfl | rfl := Nat.le_one_iff_eq_zero_or_eq_one.mp hsc <;> rfl

section values

variable (s : State) (idx k sc : Nat)

theorem extractValue_u16_toInt : (extractValue s .u16 idx k sc).m.toInt = ((raReg s idx).toNat : Int) := by
  rw [extractValue, scale_m, toInt_setWidth_mantissa _ (by decide)]

theorem extractValue_s16_toInt : (extractValue s .s16 idx k sc).m.toInt =
    if (raReg s idx).toNat < 0x8000 then ((raReg s idx).toNat : Int) else ((raReg s idx).toNat : Int) - 65536 := by
  rw [extractValue, scale_m, BitVec.toInt_signExtend_of_le (by decide), BitVec.toInt_eq_toNat_cond]
  exact if_congr (by omega) rfl rfl

theorem extractValue_u32h_toInt : (extractValue s .u32h idx k sc).m.toInt =
    65536 * ((raReg s idx).toNat : Int) + ((raReg s (idx + 1)).toNat : Int) := by
  rw [extractValue, scale_m, toInt_word32]

theorem extractValue_u32l_toInt : (extractValue s .u32l idx k sc).m.toInt =
    65536 * ((raReg s (idx + 1)).toNat : Int) + ((raReg s idx).toNat : Int) := by
  rw [extractValue, scale_m, toInt_word32]

theorem extractValue_hib_toInt :
    (extractValue s .hib idx k sc).m.toInt = (((raReg s idx).toNat / 256 : Nat) : Int) := by
  rw [extractValue, toInt_setWidth_mantissa _ (by decide), toNat_hi8]

theorem extractValue_lob_toInt :
    (extractValue s .lob idx k sc).m.toInt = (((raReg s idx).toNat % 256 : Nat) : Int) := by
  rw [extractValue, toInt_setWidth_mantissa _ (by decide), toNat_lo8]

theorem extractValue_bit_toInt :
    (extractValue s .bit idx k sc).m.toInt = (((raReg s idx).toNat / 2 ^ k % 2 : Nat) : Int) := by
  have hbit : (raReg s idx).getLsbD k = decide ((raReg s idx).toNat / 2 ^ k % 2 = 1) := by
    rw [BitVec.getLsbD, Nat.testBit_eq_decide_div_mod_eq]
  obtain h | h := Nat.mod_two_eq_zero_or_one ((raReg s idx).toNat / 2 ^ k)
  · simp [extractValue, hbit, h]
  · simp [extractValue, hbit, h]

/-- The four kinds that a scale select applies to carry its tag. -/
theorem extractValue_t_of_scaled {kind : Kind} (hkind : kind ∈ [Kind.u16, .s16, .u32h, .u32l]) (hsc : sc ≤ 1) :
    (extractValue s kind idx k sc).t = scaleTag sc := by
  fin_cases hkind <;> exact scale_t _ hsc

end values

/-! ### What the commands leave unchanged (R141, R183) -/

/-- What every outcome of an extraction command leaves: the given `XR_T`, `XR_M` and `STATUS.ERR`. -/
def withExtraction (x : TypedValue) (e : ErrCode) (s : State) : State := setErr e { s with xr := x }

/-- The frame of the seven commands, whatever their outcome. -/
theorem onlyExtraction_withExtraction (x : TypedValue) (e : ErrCode) (s : State) :
    OnlyExtraction s (withExtraction x e s) := by
  refine ⟨?host, ?inputs, ?checksum, ?output, ?request, ?response, ?block, ?flags⟩
  case host => exact ⟨rfl, rfl, rfl⟩
  case inputs => exact ⟨rfl, rfl, fun _ => rfl, rfl, fun _ => rfl, rfl⟩
  case checksum => rfl
  case output => exact ⟨rfl, fun _ => rfl⟩
  case request => rfl
  case response => exact ⟨rfl, rfl, rfl, rfl, rfl, fun _ => rfl⟩
  case block => exact ⟨rfl, rfl, rfl, rfl, fun _ => rfl⟩
  case flags => exact ⟨rfl, rfl, rfl⟩

theorem extractionFailed_clearXr (e : ErrCode) (s : State) : ExtractionFailed s (setErr e (clearXr s)) e :=
  ⟨rfl, rfl, onlyExtraction_withExtraction { t := .int, m := 0 } e s⟩

/-! ### What the commands answer (R141) -/

/-- The outcome of the first of R141's four tests that fails, where one does. -/
def firstFailure (s : State) (k sc : Nat) : ErrCode :=
  if s.status.rav = false then .decodeBlocked
  else if 2 ≤ sc then .reservedScale
  else if 7 < k then .bitRange
  else .indexRange

/-- The seven instructions have one course, that of their operands. -/
theorem exec_eq_extCommand {i : Instr} {kind : Kind} {idx k sc : Nat} (hi : extOperands i = some (kind, idx, k, sc))
    (s : State) : ∃ (a : Byte) (b : BitVec 4) (c : BitVec 2),
      a.toNat = idx ∧ b.toNat = k ∧ c.toNat = sc ∧ exec i s = extCommand kind a b c s := by
  cases i <;> cases hi <;> exact ⟨_, _, _, rfl, rfl, rfl, rfl⟩

section answers

variable {i : Instr} {kind : Kind} {idx k sc : Nat} {s : State}

theorem exec_of_extractable (hi : extOperands i = some (kind, idx, k, sc)) (h : Extractable s idx (span kind) sc)
    (hk : k ≤ 7) : exec i s = .next (withExtraction (extractValue s kind idx k sc) .ok s) := by
  obtain ⟨a, b, c, rfl, rfl, rfl, hexec⟩ := exec_eq_extCommand hi s
  obtain ⟨hrav, hsc, hidx⟩ := h
  rw [hexec]
  obtain ⟨hblocked, -⟩ | ⟨-, hscale, -⟩ | ⟨-, -, hbit, -⟩ | ⟨-, -, -, hindex, -⟩ | ⟨-, -, -, -, he⟩ :=
    extCommand_cases kind a b c s
  · rw [hrav] at hblocked
    cases hblocked
  · omega
  · omega
  · omega
  · exact he

theorem exec_of_not_extractable (hi : extOperands i = some (kind, idx, k, sc))
    (h : ¬(Extractable s idx (span kind) sc ∧ k ≤ 7)) :
    exec i s = .next (setErr (firstFailure s k sc) (clearXr s)) := by
  obtain ⟨a, b, c, rfl, rfl, rfl, hexec⟩ := exec_eq_extCommand hi s
  rw [hexec]
  obtain ⟨hrav, he⟩ | ⟨hrav, hsc, he⟩ | ⟨hrav, hsc, hk, he⟩ | ⟨hrav, hsc, hk, -, he⟩ | ⟨hrav, hsc, hk, hidx, -⟩ :=
    extCommand_cases kind a b c s
  · simp [he, firstFailure, hrav]
  · simp [he, firstFailure, hrav, hsc]
  · simp [he, firstFailure, hrav, hsc.not_ge, hk]
  · simp [he, firstFailure, hrav, hsc.not_ge, hk.not_gt]
  · exact absurd ⟨⟨hrav, by omega, hidx⟩, hk⟩ h

theorem extracted_of_extractable {tag : Tag} {v : Int} (hi : extOperands i = some (kind, idx, k, sc))
    (h : Extractable s idx (span kind) sc) (hk : k ≤ 7) (ht : (extractValue s kind idx k sc).t = tag)
    (hv : (extractValue s kind idx k sc).m.toInt = v) : ∃ t, exec i s = .next t ∧ Extracted s t tag v :=
  ⟨_, exec_of_extractable hi h hk, ht, hv, rfl, onlyExtraction_withExtraction ..⟩

theorem failed_of_not_extractable {e : ErrCode} (hi : extOperands i = some (kind, idx, k, sc))
    (h : ¬(Extractable s idx (span kind) sc ∧ k ≤ 7)) (he : firstFailure s k sc = e) :
    ∃ t, exec i s = .next t ∧ ExtractionFailed s t e :=
  ⟨_, exec_of_not_extractable hi h, he ▸ extractionFailed_clearXr _ s⟩

end answers

/-! ### The commands by the operands that they have (R142 to R148) -/

section operands

variable {i : Instr} {kind : Kind} {idx k sc : Nat} {v : Int}

/-- A command with a scale select and no bit position (R142 to R145). -/
theorem exec_of_scale (hi : extOperands i = some (kind, idx, 0, sc)) (hkind : kind ∈ [Kind.u16, .s16, .u32h, .u32l])
    (s : State) (hv : (extractValue s kind idx 0 sc).m.toInt = v) :
    (Extractable s idx (span kind) sc → ∃ t, exec i s = .next t ∧ Extracted s t (scaleTag sc) v) ∧
    (¬Extractable s idx (span kind) sc → ∃ t, exec i s = .next t ∧
      ExtractionFailed s t (if s.status.rav = false then .decodeBlocked
        else if 2 ≤ sc then .reservedScale else .indexRange)) := by
  refine ⟨fun h => ?extracted, fun h => ?failed⟩
  case extracted =>
    have ⟨_, hsc, _⟩ := h
    exact extracted_of_extractable hi h (Nat.zero_le 7) (extractValue_t_of_scaled s idx 0 sc hkind hsc) hv
  case failed => exact failed_of_not_extractable hi (fun ⟨hx, _⟩ => h hx) (by simp [firstFailure])

/-- A command with a bit position and no scale select (R148). -/
theorem exec_of_position {tag : Tag} (hi : extOperands i = some (kind, idx, k, 0)) (s : State)
    (ht : (extractValue s kind idx k 0).t = tag) (hv : (extractValue s kind idx k 0).m.toInt = v) :
    (Extractable s idx (span kind) 0 → k ≤ 7 → ∃ t, exec i s = .next t ∧ Extracted s t tag v) ∧
    (¬(Extractable s idx (span kind) 0 ∧ k ≤ 7) → ∃ t, exec i s = .next t ∧
      ExtractionFailed s t (if s.status.rav = false then .decodeBlocked
        else if 7 < k then .bitRange else .indexRange)) :=
  ⟨fun h hk => extracted_of_extractable hi h hk ht hv,
    fun h => failed_of_not_extractable hi h (by simp [firstFailure])⟩

/-- A command with neither (R146, R147): only `RAV` and the index can fail it. -/
theorem exec_of_index {tag : Tag} (hi : extOperands i = some (kind, idx, 0, 0)) (s : State)
    (ht : (extractValue s kind idx 0 0).t = tag) (hv : (extractValue s kind idx 0 0).m.toInt = v) :
    (Extractable s idx (span kind) 0 → ∃ t, exec i s = .next t ∧ Extracted s t tag v) ∧
    (¬Extractable s idx (span kind) 0 → ∃ t, exec i s = .next t ∧
      ExtractionFailed s t (if s.status.rav = false then .decodeBlocked else .indexRange)) :=
  ⟨fun h => extracted_of_extractable hi h (Nat.zero_le 7) ht hv,
    fun h => failed_of_not_extractable hi (fun ⟨hx, _⟩ => h hx) (by simp [firstFailure])⟩

end operands

/-! ### The obligations -/

/-- Settles O35: each clause fixes which test of R141 is the first to fail, or that none does. -/
theorem extractionTestsComeInOrder : Obligations.ExtractionTestsComeInOrder := by
  intro i kind idx k sc hi s
  refine ⟨fun hrav => ?blocked, fun hrav hsc => ?scale, fun hrav hsc hk => ?bit, fun hrav hsc hk hidx => ?index,
    fun hrav hsc hk hidx => ?extracted⟩
  case blocked =>
    refine failed_of_not_extractable hi ?_ (by simp [firstFailure, hrav])
    simp [Extractable, hrav]
  case scale =>
    refine failed_of_not_extractable hi ?_ (by simp [firstFailure, hrav, hsc])
    rintro ⟨⟨-, hle, -⟩, -⟩
    omega
  case bit =>
    refine failed_of_not_extractable hi ?_ (by simp [firstFailure, hrav, hsc.not_ge, hk])
    rintro ⟨-, hle⟩
    omega
  case index =>
    refine failed_of_not_extractable hi ?_ (by simp [firstFailure, hrav, hsc.not_ge, hk.not_gt])
    rintro ⟨⟨-, -, hle⟩, -⟩
    omega
  case extracted =>
    exact ⟨_, exec_of_extractable hi ⟨hrav, by omega, hidx⟩ hk, rfl, rfl, onlyExtraction_withExtraction ..⟩

/-- Settles O28: the value is the zero extension of one register. -/
theorem extractU16ReadsARegister : Obligations.ExtractU16ReadsARegister :=
  ⟨decodeCommand_scaled (opc := 0x30#8) (build := .extU16) (by simp [opcodeMap, scaledRow, commandWord]) rfl,
    fun _ _ s => exec_of_scale (kind := .u16) rfl (by decide) s (extractValue_u16_toInt ..)⟩

/-- Settles O29: the value is the sign extension of one register. -/
theorem extractS16ReinterpretsARegister : Obligations.ExtractS16ReinterpretsARegister :=
  ⟨decodeCommand_scaled (opc := 0x31#8) (build := .extS16) (by simp [opcodeMap, scaledRow, commandWord]) rfl,
    fun _ _ s => exec_of_scale (kind := .s16) rfl (by decide) s (extractValue_s16_toInt ..)⟩

/-- Settles O30: the value is two registers joined, the first one high. -/
theorem extractU32HComposesHighWordFirst : Obligations.ExtractU32HComposesHighWordFirst :=
  ⟨decodeCommand_scaled (opc := 0x32#8) (build := .extU32H) (by simp [opcodeMap, scaledRow, commandWord]) rfl,
    fun _ _ s => exec_of_scale (kind := .u32h) rfl (by decide) s (extractValue_u32h_toInt ..)⟩

/-- Settles O31: the value is two registers joined, the second one high. -/
theorem extractU32LComposesLowWordFirst : Obligations.ExtractU32LComposesLowWordFirst :=
  ⟨decodeCommand_scaled (opc := 0x33#8) (build := .extU32L) (by simp [opcodeMap, scaledRow, commandWord]) rfl,
    fun _ _ s => exec_of_scale (kind := .u32l) rfl (by decide) s (extractValue_u32l_toInt ..)⟩

/-- Settles O32: the value is the high byte, zero-extended. -/
theorem extractHighByte : Obligations.ExtractHighByte := by
  have hrow : byteRow 0x34#8 .extHib ∈ opcodeMap := by simp [opcodeMap, byteRow, commandWord]
  exact ⟨decodeCommand_byte hrow rfl, fun _ => decodeCommand_byte_rejects hrow, fun _ s =>
    exec_of_index (kind := .hib) rfl s rfl (extractValue_hib_toInt ..)⟩

/-- Settles O33: the value is the low byte, zero-extended. -/
theorem extractLowByte : Obligations.ExtractLowByte := by
  have hrow : byteRow 0x35#8 .extLob ∈ opcodeMap := by simp [opcodeMap, byteRow, commandWord]
  exact ⟨decodeCommand_byte hrow rfl, fun _ => decodeCommand_byte_rejects hrow, fun _ s =>
    exec_of_index (kind := .lob) rfl s rfl (extractValue_lob_toInt ..)⟩

/-- Settles O34: the value is one bit, and its position is tested before the index. -/
theorem extractBitOfTheLowByte : Obligations.ExtractBitOfTheLowByte := by
  have hrow : positionRow 0x36#8 .extBit ∈ opcodeMap := by simp [opcodeMap, positionRow, commandWord]
  exact ⟨decodeCommand_position hrow rfl, fun _ => decodeCommand_position_rejects hrow, fun _ _ s =>
    exec_of_position (kind := .bit) rfl s rfl (extractValue_bit_toInt ..)⟩

end Sys2Proof.Extraction
end

section
/-! PROOFS. Bytes on the wire (spec/00_scope.md R8, spec/20_memory.md R51, R52): a value and its two bytes, a value
sequence and its bytes, and a frame split into what comes before its checksum and the checksum. -/

namespace Sys2Proof.WireBytes

open Sys2Proof.Laws

/-! ### One 16-bit value (R8) -/

@[simp] theorem be16_hi8_lo8 (r : Reg16) : be16 (hi8 r) (lo8 r) = r := by
  ext i hi
  interval_cases i <;> simp [be16, hi8, lo8]

@[simp] theorem hi8_be16 (h l : Byte) : hi8 (be16 h l) = h := by
  ext i hi
  interval_cases i <;> simp [be16, hi8]

@[simp] theorem lo8_be16 (h l : Byte) : lo8 (be16 h l) = l := by
  ext i hi
  interval_cases i <;> simp [be16, lo8]

@[simp] theorem crcBytes_be16 (h l : Byte) : crcBytes (be16 h l) = [l, h] := by simp [crcBytes]

/-! ### Value sequences, big-endian (R51) -/

@[simp] theorem beRegs_beBytes (vs : List Reg16) : beRegs (beBytes vs) = vs := by
  induction vs with
  | nil => rfl
  | cons v vs ih => simp [beBytes, beRegs, ih]

theorem beBytes_beRegs {bs : List Byte} {n : Nat} (hn : bs.length = 2 * n) : beBytes (beRegs bs) = bs := by
  induction n generalizing bs with
  | zero => rw [List.length_eq_zero_iff.mp hn]; rfl
  | succ n ih =>
    match bs, hn with
    | h :: l :: bs, hn =>
      have hrest : bs.length = 2 * n := by simpa [Nat.mul_succ] using hn
      simp [beBytes, beRegs, ih hrest]

theorem beRegs_length {bs : List Byte} {n : Nat} (hn : bs.length = 2 * n) : (beRegs bs).length = n := by
  have h := congrArg List.length (beBytes_beRegs hn)
  rw [beBytes_length, hn] at h
  omega

theorem beBytes_eq_flatMap (vs : List Reg16) : beBytes vs = vs.flatMap fun v => [hi8 v, lo8 v] := by
  induction vs with
  | nil => rfl
  | cons v vs ih => simp [beBytes, ih]

/-! ### The trailing checksum (R70, R52) -/

@[simp] theorem splitCrc_append_crcBytes (bs : List Byte) (c : Reg16) : splitCrc (bs ++ crcBytes c) = some (bs, c) := by
  induction bs with
  | nil => simp [splitCrc, crcBytes]
  | cons b bs ih =>
    obtain ⟨x, y, zs, h⟩ : ∃ x y zs, bs ++ crcBytes c = x :: y :: zs := by
      match bs with
      | [] => exact ⟨_, _, _, rfl⟩
      | [x] => exact ⟨_, _, _, rfl⟩
      | x :: y :: zs => exact ⟨_, _, _, rfl⟩
    rw [h] at ih
    simp [h, splitCrc, ih]

theorem splitCrc_some {bs body : List Byte} {c : Reg16} (h : splitCrc bs = some (body, c)) :
    bs = body ++ crcBytes c := by
  induction bs using splitCrc.induct generalizing body with
  | case1 => cases h
  | case2 => cases h
  | case3 c0 c1 => cases h; simp
  | case4 b x y bs ih =>
    simp only [splitCrc, Option.map_eq_some_iff, Prod.exists, Prod.mk.injEq] at h
    obtain ⟨rest, c', hrest, rfl, rfl⟩ := h
    rw [ih hrest, List.cons_append]

end Sys2Proof.WireBytes
end

section
/-! PROOFS. The decoder and the encoder are inverse to each other (spec/30_encoding.md Parts A and B). For the command
words both directions, and the three causes of an illegal word, rest on one fact: when a row of R81 holds of a word. -/

namespace Sys2Proof.Codec

open Sys2Proof.Machine Sys2Proof.Laws Sys2Proof.CommandWords Sys2Proof.WireBytes

/-! ### When a row holds of a word (R80, R81) -/

theorem fieldA_and (v w : CmdWord) : fieldA (v &&& w) = fieldA v &&& fieldA w := by
  simp only [fieldA, BitVec.ushiftRight_and_distrib, BitVec.setWidth_and]

theorem fieldRsv_and (v w : CmdWord) : fieldRsv (v &&& w) = fieldRsv v &&& fieldRsv w := by
  simp only [fieldRsv, BitVec.ushiftRight_and_distrib, BitVec.setWidth_and]

@[simp] theorem fieldRsv_commandWord (opc a : Byte) (b : BitVec 4) (sc : BitVec 2) :
    fieldRsv (commandWord opc a b sc) = 0 := by
  ext i hi
  interval_cases i <;> simp [fieldRsv, commandWord]

/-- A word with `RSV = 0` is assembled from its other fields. -/
theorem commandWord_fields {w : CmdWord} (hrsv : fieldRsv w = 0) :
    commandWord (fieldOpc w) (fieldA w) (fieldB w) (fieldSc w) = w := by
  ext i hi
  by_cases h : i < 22
  · interval_cases i <;> simp [fieldOpc, fieldA, fieldB, fieldSc, commandWord]
  · have hbit : (fieldRsv w).getLsbD (i - 22) = false := by rw [hrsv]; simp
    have hw : w.getLsbD i = false := by
      simpa [fieldRsv, show i - 22 < 10 by omega, show 22 + (i - 22) = i by omega] using hbit
    rw [BitVec.getLsbD_eq_getElem hi] at hw
    rw [hw]
    interval_cases i <;> simp_all [commandWord]

/-- A row tests each operand field whole or not at all, `RSV` whole, and asks for zero wherever it is not `OPC`. -/
theorem opcodeMap_masks : ∀ r ∈ opcodeMap,
    (fieldA r.mask = 0 ∨ fieldA r.mask = BitVec.allOnes 8) ∧ (fieldB r.mask = 0 ∨ fieldB r.mask = BitVec.allOnes 4) ∧
      (fieldSc r.mask = 0 ∨ fieldSc r.mask = BitVec.allOnes 2) ∧ fieldRsv r.mask = BitVec.allOnes 10 ∧
      r.pattern = commandWord (fieldOpc r.pattern) 0 0 0 := by decide

theorem and_eq_zero_of_tested {n : Nat} {m : BitVec n} (hm : m = 0 ∨ m = BitVec.allOnes n) (x : BitVec n) :
    x &&& m = 0 ↔ (m ≠ 0 → x = 0) := by
  obtain rfl | rfl := hm
  · simp
  · rw [BitVec.and_allOnes]
    refine ⟨fun h _ => h, fun h => ?_⟩
    by_cases hn : BitVec.allOnes n = 0
    · simpa [hn] using (BitVec.and_allOnes (x := x)).symm
    · exact h hn

/-- A row holds of the words with its opcode, `RSV = 0`, and zero in every operand field that the row tests. -/
theorem holds_iff {r : OpRow} (hr : r ∈ opcodeMap) (w : CmdWord) :
    r.holds w = true ↔ fieldOpc w = fieldOpc r.pattern ∧ fieldRsv w = 0 ∧ (fieldA r.mask ≠ 0 → fieldA w = 0) ∧
      (fieldB r.mask ≠ 0 → fieldB w = 0) ∧ (fieldSc r.mask ≠ 0 → fieldSc w = 0) := by
  obtain ⟨hA, hB, hSc, hRsv, hpattern⟩ := opcodeMap_masks r hr
  have hOpc := opcodeMap_tests_opc r hr
  rw [← and_eq_zero_of_tested hA (fieldA w), ← and_eq_zero_of_tested hB (fieldB w),
    ← and_eq_zero_of_tested hSc (fieldSc w)]
  constructor
  · intro hw
    have hmasked : w &&& r.mask = commandWord (fieldOpc r.pattern) 0 0 0 := (of_decide_eq_true hw).trans hpattern
    refine ⟨field_of_holds fieldOpc_and hOpc hw, ?rsv, ?opA, ?opB, ?opSc⟩
    case rsv => rw [field_of_holds fieldRsv_and hRsv hw, hpattern, fieldRsv_commandWord]
    case opA => rw [← fieldA_and, hmasked, fieldA_commandWord]
    case opB => rw [← fieldB_and, hmasked, fieldB_commandWord]
    case opSc => rw [← fieldSc_and, hmasked, fieldSc_commandWord]
  · rintro ⟨hopc, hrsv, ha, hb, hsc⟩
    refine decide_eq_true ?_
    rw [← commandWord_fields hrsv, commandWord_and, hOpc, BitVec.and_allOnes, ha, hb, hsc, hopc, ← hpattern]

theorem decodeCommand_instr {w : CmdWord} {i : Instr} (h : decodeCommand w = .instr i) :
    ∃ r ∈ opcodeMap, r.holds w = true ∧ r.build w = i := by
  unfold decodeCommand at h
  split at h
  next r hr =>
    cases h
    exact ⟨r, List.mem_of_find?_eq_some hr, List.find?_some (p := fun q => OpRow.holds q w) hr, rfl⟩
  next => cases h

theorem decodeCommand_rejected_iff (w : CmdWord) :
    (∃ e, decodeCommand w = .rejected e) ↔ ∀ r ∈ opcodeMap, r.holds w = false := by
  constructor
  · rintro ⟨e, he⟩ r hr
    refine Bool.eq_false_iff.mpr fun hw => ?_
    rw [decodeCommand_of_holds hr hw] at he
    cases he
  · intro h
    cases hd : decodeCommand w with
    | rejected e => exact ⟨e, rfl⟩
    | instr i =>
      obtain ⟨r, hr, hw, -⟩ := decodeCommand_instr hd
      rw [h r hr] at hw
      cases hw

/-! ### The word of the command a row builds (R81) -/

/-- An operand field as the command of a row has it: the word's where the row leaves it free, else zero. -/
def operandField {n : Nat} (field : CmdWord → BitVec n) (r : OpRow) (w : CmdWord) : BitVec n :=
  if field r.mask = 0 then field w else 0

theorem operandField_eq {n : Nat} {field : CmdWord → BitVec n} {r : OpRow} {w : CmdWord}
    (h : field r.mask ≠ 0 → field w = 0) : operandField field r w = field w := by
  unfold operandField
  split
  next => rfl
  next hmask => exact (h hmask).symm

/-- Each row builds the command whose word has the row's opcode and the fields the row leaves free. -/
theorem encode_build (w : CmdWord) : ∀ r ∈ opcodeMap, encode (r.build w) =
    .cmd (commandWord (fieldOpc r.pattern) (operandField fieldA r w) (operandField fieldB r w)
      (operandField fieldSc r w)) := by
  simp only [opcodeMap, List.forall_mem_cons]
  exact ⟨rfl, rfl, rfl, rfl, rfl, rfl, rfl, rfl, rfl, rfl, rfl, rfl, rfl, rfl, rfl, rfl, rfl, nofun⟩

theorem wf_build (w : CmdWord) : ∀ r ∈ opcodeMap, (r.build w).wf = true := by
  simp only [opcodeMap, List.forall_mem_cons]
  exact ⟨rfl, rfl, rfl, rfl, rfl, rfl, rfl, rfl, rfl, rfl, rfl, rfl, rfl, rfl, rfl, rfl, rfl, nofun⟩

theorem encode_of_decodeCommand {w : CmdWord} {i : Instr} (h : decodeCommand w = .instr i) :
    i.wf = true ∧ encode i = .cmd w := by
  obtain ⟨r, hr, hw, rfl⟩ := decodeCommand_instr h
  obtain ⟨hopc, hrsv, ha, hb, hsc⟩ := (holds_iff hr w).mp hw
  refine ⟨wf_build w r hr, ?_⟩
  rw [encode_build w r hr, operandField_eq ha, operandField_eq hb, operandField_eq hsc, ← hopc,
    commandWord_fields hrsv]

/-! ### The command words back and forth (R81) -/

/-- The word of a command without operands is one constant. -/
theorem decode_encode_plain : ∀ i ∈ [Instr.crcInit, .crcBuf, .encRd, .encWs, .encWm, .decReq, .decRsp, .sreset],
    decode (encode i) = .instr i := by decide

theorem decode_byte {opc : Byte} {build : Byte → Instr} (hr : byteRow opc build ∈ opcodeMap) (a : Byte) :
    decode (.cmd (commandWord opc a 0 0)) = .instr (build a) := by
  simpa [decode, commandWord] using decodeCommand_byte hr rfl a

theorem decode_scaled {opc : Byte} {build : Byte → BitVec 2 → Instr} (hr : scaledRow opc build ∈ opcodeMap) (a : Byte)
    (sc : BitVec 2) : decode (.cmd (commandWord opc a 0 sc)) = .instr (build a sc) := by
  simpa [decode, commandWord] using decodeCommand_scaled hr rfl a sc

theorem decode_position {opc : Byte} {build : Byte → BitVec 4 → Instr} (hr : positionRow opc build ∈ opcodeMap)
    (a : Byte) (b : BitVec 4) : decode (.cmd (commandWord opc a b 0)) = .instr (build a b) := by
  simpa [decode, commandWord] using decodeCommand_position hr rfl a b

theorem decode_encode_command {i : Instr} (hi : i.isCommand = true) : decode (encode i) = .instr i := by
  cases i with
  | crcByte b => exact decode_byte (by simp [opcodeMap, byteRow, commandWord]) b
  | extHib idx => exact decode_byte (by simp [opcodeMap, byteRow, commandWord]) idx
  | extLob idx => exact decode_byte (by simp [opcodeMap, byteRow, commandWord]) idx
  | rdeDecode fc => exact decode_byte (by simp [opcodeMap, byteRow, commandWord]) fc
  | extU16 idx sc => exact decode_scaled (by simp [opcodeMap, scaledRow, commandWord]) idx sc
  | extS16 idx sc => exact decode_scaled (by simp [opcodeMap, scaledRow, commandWord]) idx sc
  | extU32H idx sc => exact decode_scaled (by simp [opcodeMap, scaledRow, commandWord]) idx sc
  | extU32L idx sc => exact decode_scaled (by simp [opcodeMap, scaledRow, commandWord]) idx sc
  | extBit idx k => exact decode_position (by simp [opcodeMap, positionRow, commandWord]) idx k
  | frameReadReq | frameWriteSingleReq | frameWriteMultipleReq | frameNormalRsp | frameExceptionRsp => cases hi
  | _ => exact decode_encode_plain _ (by simp)

/-! ### The frames back and forth (R71 to R75) -/

theorem decode_encode_writeMultiple (u : Byte) (a : Reg16) {vs : List Reg16} (c : Reg16) (hvs : vs.length ≤ 127) :
    decode (encode (.frameWriteMultipleReq u a vs c)) = .instr (.frameWriteMultipleReq u a vs c) := by
  have hcount : 2 * vs.length % 256 = 2 * vs.length := Nat.mod_eq_of_lt (by omega)
  have hqty : vs.length % 65536 = vs.length := Nat.mod_eq_of_lt (by omega)
  have hbytes : (beBytes vs).length = 2 * vs.length := beBytes_length vs
  have htake : (beBytes vs ++ crcBytes c).take (2 * vs.length) = beBytes vs := by rw [← hbytes, List.take_left]
  have hdrop : (beBytes vs ++ crcBytes c).drop (2 * vs.length) = [lo8 c, hi8 c] := by
    rw [← hbytes, List.drop_left]; rfl
  simp [decode, encode, writeMultipleBody, requestHeader, decodeRequest, hcount, hqty, htake, hdrop]

theorem even_byte_iff (b : Byte) : b.getLsbD 0 = false ↔ b.toNat % 2 = 0 := by
  rw [BitVec.getLsbD, Nat.testBit_zero, decide_eq_false_iff_not]
  omega

theorem decode_encode_normal (u : Byte) {f : Byte} {rs : List Reg16} {extra : List Byte} (c : Reg16)
    (hf : isExceptionCode f = false) (hrs : rs.length ≤ 127) (hlen : 5 + 2 * rs.length + extra.length ≤ 65535) :
    decode (encode (.frameNormalRsp u f rs extra c)) = .instr (.frameNormalRsp u f rs extra c) := by
  have hcount : 2 * rs.length % 256 = 2 * rs.length := Nat.mod_eq_of_lt (by omega)
  have hbytes : (beBytes rs).length = 2 * rs.length := beBytes_length rs
  have heven : (BitVec.ofNat 8 (2 * rs.length)).getLsbD 0 = false := by
    rw [even_byte_iff, BitVec.toNat_ofNat]; omega
  have htake (tail : List Byte) : (beBytes rs ++ tail).take (2 * rs.length) = beBytes rs := by
    rw [← hbytes, List.take_left]
  have hdrop (tail : List Byte) : (beBytes rs ++ tail).drop (2 * rs.length) = tail := by
    rw [← hbytes, List.drop_left]
  have hshort : ¬ 65535 < 2 * rs.length + (extra.length + 2) + 3 := by omega
  have hlong : ¬ 2 * rs.length + (extra.length + 2) < 2 * rs.length + 2 := by omega
  simp only [decode, encode, List.cons_append, List.nil_append, List.append_assoc, decodeResponse, hf, heven,
    List.length_append, beBytes_length, crcBytes_length, hshort, hlong, BitVec.toNat_ofNat, hcount, htake, hdrop,
    if_false, splitCrc_append_crcBytes, beRegs_beBytes, Bool.false_eq_true, Nat.reducePow]

theorem decode_encode_exception (u : Byte) {f : Byte} (x : Byte) {extra : List Byte} (c : Reg16)
    (hf : isExceptionCode f = true) (hlen : 5 + extra.length ≤ 65535) :
    decode (encode (.frameExceptionRsp u f x extra c)) = .instr (.frameExceptionRsp u f x extra c) := by
  have hshort : ¬ 65535 < extra.length + 2 + 3 := by omega
  simp only [decode, encode, List.cons_append, List.nil_append, decodeResponse, hf, List.length_append, crcBytes_length,
    hshort, if_false, if_true, splitCrc_append_crcBytes]

/-- The bytes of a write-multiple request are those of its values and of the counts that agree with them (R73). -/
theorem encode_writeMultiple_of_bytes (u a1 a0 q1 q0 b c0 c1 : Byte) {tail : List Byte}
    (hcount : b.toNat = 2 * (be16 q1 q0).toNat) (htail : tail.drop b.toNat = [c0, c1]) :
    (Instr.frameWriteMultipleReq u (be16 a1 a0) (beRegs (tail.take b.toNat)) (be16 c1 c0)).wf = true ∧
      encode (.frameWriteMultipleReq u (be16 a1 a0) (beRegs (tail.take b.toNat)) (be16 c1 c0)) =
        .req (u :: 0x10#8 :: a1 :: a0 :: q1 :: q0 :: b :: tail) := by
  have hlen : (tail.take b.toNat).length = 2 * (be16 q1 q0).toNat := by
    have hdrop := congrArg List.length htail
    rw [List.length_drop, List.length_cons, List.length_cons, List.length_nil] at hdrop
    rw [List.length_take, ← hcount]
    omega
  have hvalues := beRegs_length hlen
  have hb := b.isLt
  have hbytes : beBytes (beRegs (tail.take b.toNat)) ++ [c0, c1] = tail := by
    rw [beBytes_beRegs hlen, ← htail, List.take_append_drop]
  refine ⟨decide_eq_true (by omega), ?_⟩
  simp only [encode, writeMultipleBody, requestHeader, hvalues, ← hcount, BitVec.ofNat_toNat, BitVec.setWidth_eq,
    hi8_be16, lo8_be16, crcBytes_be16, List.cons_append, List.nil_append, hbytes]

theorem encode_of_decodeRequest {bs : List Byte} {i : Instr} (h : decodeRequest bs = .instr i) :
    i.wf = true ∧ encode i = .req bs := by
  unfold decodeRequest at h
  split at h
  next u f bs =>
    split_ifs at h with h3 h6 h16
    case pos =>
      split at h
      next => cases h; exact ⟨rfl, by simp [encode, requestHeader, h3]⟩
      next => cases h
    case pos =>
      split at h
      next => cases h; exact ⟨rfl, by simp [encode, requestHeader, h6]⟩
      next => cases h
    case pos =>
      split at h
      next a1 a0 q1 q0 b tail =>
        split at h
        next hcount =>
          split at h
          next c0 c1 htail =>
            cases h
            rw [h16]
            exact encode_writeMultiple_of_bytes u a1 a0 q1 q0 b c0 c1 hcount htail
          next => cases h
        next => cases h
      next => cases h
  next => cases h

/-- The bytes of an exception response are those of its row, extra bytes included (R75, R78). -/
theorem encode_exception_of_bytes (u x : Byte) {f : Byte} {bs : List Byte} {p : List Byte × Reg16}
    (hfc : isExceptionCode f = true) (hlen : bs.length + 3 ≤ 65535) (hp : splitCrc bs = some p) :
    (Instr.frameExceptionRsp u f x p.1 p.2).wf = true ∧
      encode (.frameExceptionRsp u f x p.1 p.2) = .rsp (u :: f :: x :: bs) := by
  have hbs : bs = p.1 ++ crcBytes p.2 := splitCrc_some hp
  rw [hbs, List.length_append, crcBytes_length] at hlen
  refine ⟨?wf, by simp [encode, hbs]⟩
  simp only [Instr.wf, hfc, Bool.true_and, decide_eq_true_eq]
  omega

/-- The bytes of a normal response are those of its byte count, its registers and the bytes after them (R74, R78). -/
theorem encode_normal_of_bytes (u : Byte) {f x : Byte} {bs : List Byte} {p : List Byte × Reg16}
    (hfc : isExceptionCode f = false) (heven : x.toNat % 2 = 0) (henough : x.toNat + 2 ≤ bs.length)
    (hlen : bs.length + 3 ≤ 65535) (hp : splitCrc (bs.drop x.toNat) = some p) :
    (Instr.frameNormalRsp u f (beRegs (bs.take x.toNat)) p.1 p.2).wf = true ∧
      encode (.frameNormalRsp u f (beRegs (bs.take x.toNat)) p.1 p.2) = .rsp (u :: f :: x :: bs) := by
  have hx := x.isLt
  have hdrop : bs.drop x.toNat = p.1 ++ crcBytes p.2 := splitCrc_some hp
  have hrest := congrArg List.length hdrop
  rw [List.length_drop, List.length_append, crcBytes_length] at hrest
  have hcount : 2 * (x.toNat / 2) = x.toNat := by omega
  have htake : (bs.take x.toNat).length = 2 * (x.toNat / 2) := by rw [List.length_take]; omega
  have hregs := beRegs_length htake
  have hbytes : bs = beBytes (beRegs (bs.take x.toNat)) ++ (p.1 ++ crcBytes p.2) := by
    rw [beBytes_beRegs htake, ← hdrop, List.take_append_drop]
  refine ⟨?wf, ?encode⟩
  case wf =>
    simp only [Instr.wf, hfc, hregs, Bool.not_false, Bool.true_and, Bool.and_eq_true, decide_eq_true_eq]
    omega
  case encode =>
    simp only [encode, hregs, hcount, BitVec.ofNat_toNat, BitVec.setWidth_eq, List.cons_append, List.nil_append,
      List.append_assoc, ← hbytes]

theorem encode_of_decodeResponse {bs : List Byte} {i : Instr} (h : decodeResponse bs = .instr i) :
    i.wf = true ∧ encode i = .rsp bs := by
  unfold decodeResponse at h
  split at h
  next u f x bs =>
    split_ifs at h with hlong hfc hodd hshort
    case pos =>
      split at h
      next p hp => cases h; exact encode_exception_of_bytes u x hfc (by omega) hp
      next => cases h
    case neg =>
      have heven : x.toNat % 2 = 0 := (even_byte_iff x).mp (by simpa using hodd)
      split at h
      next p hp => cases h; exact encode_normal_of_bytes u (by simpa using hfc) heven (by omega) (by omega) hp
      next => cases h
  next => cases h

/-! ### The obligations -/

/-- Settles O1, by the rows of R81 for the commands and by the layouts of R71 to R75 for the frames. -/
theorem decodeOfEncodeIsTheInstruction : Obligations.DecodeOfEncodeIsTheInstruction := by
  intro i hi
  cases i with
  | frameReadReq => simp [decode, encode, requestHeader, crcBytes, decodeRequest]
  | frameWriteSingleReq => simp [decode, encode, requestHeader, crcBytes, decodeRequest]
  | frameWriteMultipleReq u a vs c => exact decode_encode_writeMultiple u a c (of_decide_eq_true hi)
  | frameNormalRsp u f rs extra c =>
    simp only [Instr.wf, Bool.and_eq_true, Bool.not_eq_true', decide_eq_true_eq] at hi
    obtain ⟨⟨hf, hrs⟩, hlen⟩ := hi
    exact decode_encode_normal u c hf hrs hlen
  | frameExceptionRsp u f x extra c =>
    simp only [Instr.wf, Bool.and_eq_true, decide_eq_true_eq] at hi
    obtain ⟨hf, hlen⟩ := hi
    exact decode_encode_exception u x c hf hlen
  | _ => exact decode_encode_command rfl

/-- Settles O2, by the form of the code: a row of R81 that holds of the word, or the layout that the bytes passed. -/
theorem encodeOfDecodeIsTheCode : Obligations.EncodeOfDecodeIsTheCode := by
  intro c i h
  cases c with
  | cmd w => exact encode_of_decodeCommand h
  | req bs => exact encode_of_decodeRequest h
  | rsp bs => exact encode_of_decodeResponse h

/-- The three causes of R82. -/
theorem decodeCommand_rejected_iff_causes (w : CmdWord) : (∃ r, decodeCommand w = .rejected r) ↔
    (∀ row ∈ opcodeMap, fieldOpc row.pattern ≠ fieldOpc w) ∨ fieldRsv w ≠ 0 ∨
    ∃ row ∈ opcodeMap, fieldOpc row.pattern = fieldOpc w ∧
      ((fieldA row.mask ≠ 0 ∧ fieldA w ≠ 0) ∨ (fieldB row.mask ≠ 0 ∧ fieldB w ≠ 0) ∨
        (fieldSc row.mask ≠ 0 ∧ fieldSc w ≠ 0)) := by
  rw [decodeCommand_rejected_iff]
  constructor
  · intro hnone
    by_contra! hlegal
    obtain ⟨⟨row, hrow, hopc⟩, hrsv, hfields⟩ := hlegal
    obtain ⟨ha, hb, hsc⟩ := hfields row hrow hopc
    have hholds := (holds_iff hrow w).mpr ⟨hopc.symm, hrsv, ha, hb, hsc⟩
    rw [hnone row hrow] at hholds
    cases hholds
  · intro hcause r hr
    refine Bool.eq_false_iff.mpr fun hw => ?_
    obtain ⟨hopc, hrsv, ha, hb, hsc⟩ := (holds_iff hr w).mp hw
    rcases hcause with hopcs | hrsv' | ⟨row, hrow, hopc', hfield⟩
    · exact hopcs r hr hopc.symm
    · exact hrsv' hrsv
    · obtain rfl : row = r := List.inj_on_of_nodup_map opcodeMap_opc_nodup hrow hr (hopc'.trans hopc)
      rcases hfield with ⟨hm, hne⟩ | ⟨hm, hne⟩ | ⟨hm, hne⟩
      · exact hne (ha hm)
      · exact hne (hb hm)
      · exact hne (hsc hm)

/-- Settles O3: the word's opcode names at most one row, no other row can hold of it, and no row has opcode zero. -/
theorem illegalWordsAreThoseOfTheirThreeCauses : Obligations.IllegalWordsAreThoseOfTheirThreeCauses := by
  refine ⟨decodeCommand_rejected_iff_causes, fun w r s hr => ?run, fun w hw => ?zero⟩
  case run => simp only [runCode, decode, hr]; rfl
  case zero =>
    have hnonzero : ∀ row ∈ opcodeMap, fieldOpc row.pattern ≠ 0 := by decide
    exact (decodeCommand_rejected_iff_causes w).mpr (.inl fun row hrow hopc => hnonzero row hrow (hopc.trans hw))

/-- Settles O4: a word has one opcode, and each row another. -/
theorem noTwoOpcodeRowsMatchOneWord : Obligations.NoTwoOpcodeRowsMatchOneWord := by
  have hopcs : opcodeMap.Pairwise fun a b => fieldOpc a.pattern ≠ fieldOpc b.pattern :=
    List.pairwise_map.mp opcodeMap_opc_nodup
  refine hopcs.imp_of_mem fun {a b} ha hb hne w ⟨hwa, hwb⟩ => hne ?_
  rw [← field_of_holds fieldOpc_and (opcodeMap_tests_opc a ha) hwa,
    field_of_holds fieldOpc_and (opcodeMap_tests_opc b hb) hwb]

/-- Settles O5: the fixed codes, evaluated. -/
theorem decodedWordsOfTheSpec : Obligations.DecodedWordsOfTheSpec := by
  unfold Obligations.DecodedWordsOfTheSpec
  decide

/-- Settles O51: the layouts are the encoder's, with the values' bytes listed value by value. -/
theorem frameLayoutsByteByByte : Obligations.FrameLayoutsByteByByte := by
  intro u f x a v c vs extra
  refine ⟨rfl, rfl, ?writeMultiple, ?normal, rfl⟩
  case writeMultiple => simp [encode, writeMultipleBody, requestHeader, crcBytes, beBytes_eq_flatMap]
  case normal => simp [encode, crcBytes, beBytes_eq_flatMap]

end Sys2Proof.Codec
end

section
/-! PROOFS. The rule table (spec/30_encoding.md R89, spec/43_register_engine.md R150, R151): the checks of `rules_wf` as
conditions on numbers, what they give for a selected rule, and tables that grow or shadow. -/

namespace Sys2Proof.RuleTable

open Sys2Proof.Machine Sys2Proof.Laws Sys2Proof.RuleSelection

/-! ### The nine checks (R89) -/

theorem wfKeyUnique_iff (rs : List Rule) :
    wfKeyUnique rs = true ↔ rs.Pairwise fun a b => ¬(a.addr = b.addr ∧ a.minCount = b.minCount) := by
  induction rs with
  | nil => simp [wfKeyUnique]
  | cons r rs ih => simp [wfKeyUnique, ih, imp_iff_not_or]

theorem wfSpan_iff (r : Rule) (d : FieldDesc) :
    wfSpan r d = true ↔ d.idx + (if d.kind = 2 ∨ d.kind = 3 then 2 else 1) ≤ r.minCount := decide_eq_true_iff

theorem wfBit_iff (d : FieldDesc) : wfBit d = true ↔ d.k ≤ 7 ∧ (d.kind ≠ 6 → d.k = 0) := by
  simp only [wfBit, Bool.and_eq_true, Bool.or_eq_true, decide_eq_true_eq]
  omega

theorem wfScale_iff (d : FieldDesc) :
    wfScale d = true ↔ d.sc ≤ 1 ∧ (d.kind = 4 ∨ d.kind = 5 ∨ d.kind = 6 → d.sc = 0) := by
  simp only [wfScale, Bool.and_eq_true, Bool.or_eq_true, Bool.not_eq_true', Bool.or_eq_false_iff, decide_eq_true_eq,
    decide_eq_false_iff_not]
  omega

theorem ruleWf_iff (c : Config) (r : Rule) :
    ruleWf c r = true ↔ 1 ≤ r.minCount ∧ r.minCount ≤ 127 ∧ r.blockId ≠ 0 ∧ r.fields.length ≤ c.foCap ∧
      ∀ d ∈ r.fields, d.kind ≤ 6 ∧ d.idx + (if d.kind = 2 ∨ d.kind = 3 then 2 else 1) ≤ r.minCount ∧
        d.k ≤ 7 ∧ (d.kind ≠ 6 → d.k = 0) ∧ d.sc ≤ 1 ∧ (d.kind = 4 ∨ d.kind = 5 ∨ d.kind = 6 → d.sc = 0) := by
  simp only [ruleWf, wfMincount, wfBlockid, wfNfields, wfKind, List.all_eq_true, Bool.and_eq_true,
    wfSpan_iff, wfBit_iff, wfScale_iff, decide_eq_true_eq, and_assoc]

/-- Settles O43, check by check. -/
theorem wellFormedTablesPassTheNineChecks : Obligations.WellFormedTablesPassTheNineChecks := by
  intro c
  simp only [rulesWf, wfCount, Bool.and_eq_true, decide_eq_true_eq, wfKeyUnique_iff, List.all_eq_true, ruleWf_iff,
    and_assoc]

/-! ### A well-formed configuration (R6, R202) -/

theorem configWf_iff (c : Config) :
    configWf c = true ↔ 263 ≤ c.bufCap ∧ c.bufCap ≤ 65535 ∧ 1 ≤ c.foCap ∧ c.foCap ≤ 255 ∧ rulesWf c = true := by
  simp only [configWf, Bool.and_eq_true, decide_eq_true_eq, and_assoc]

theorem ruleWf_of_mem {c : Config} {r : Rule} (hc : rulesWf c = true) (hr : r ∈ c.rules) : ruleWf c r = true := by
  simp only [rulesWf, Bool.and_eq_true, List.all_eq_true] at hc
  obtain ⟨-, hrules⟩ := hc
  exact hrules r hr

theorem rulesWf_of_configWf {c : Config} (hc : configWf c = true) : rulesWf c = true := by
  obtain ⟨-, -, -, -, hrules⟩ := (configWf_iff c).mp hc
  exact hrules

/-- The kind that a code of a well-formed descriptor names, with the span its check uses. -/
theorem kindOfCode_of_le {n : Nat} (hn : n ≤ 6) :
    ∃ kind, kindOfCode n = some kind ∧ span kind = if n = 2 ∨ n = 3 then 2 else 1 := by
  interval_cases n <;> exact ⟨_, rfl, rfl⟩

/-- Each field of a selected well-formed rule lies in the domain of `extract` (R149, R151). -/
theorem extractField_of_wf {s : State} {r : Rule} {d : FieldDesc} (hr : ruleWf s.cfg r = true)
    (hcount : r.minCount ≤ s.p.ralen.toNat) (hd : d ∈ r.fields) : ∃ e, extractField s d = some e := by
  obtain ⟨-, -, -, -, hfields⟩ := (ruleWf_iff _ r).mp hr
  obtain ⟨hkind, hspan, hk, -, hsc, -⟩ := hfields d hd
  obtain ⟨kind, hcode, hspan'⟩ := kindOfCode_of_le hkind
  have hdefined : extractDefined s kind d.idx d.k d.sc = true := by
    rw [← hspan'] at hspan
    simp only [extractDefined, Bool.and_eq_true, decide_eq_true_eq]
    omega
  simp only [extractField, hcode, hdefined, if_true]
  exact ⟨_, rfl⟩

theorem extractFields_of_forall {s : State} {ds : List FieldDesc} (h : ∀ d ∈ ds, ∃ e, extractField s d = some e) :
    ∃ es, extractFields s ds = some es := by
  induction ds with
  | nil => exact ⟨[], rfl⟩
  | cons d ds ih =>
    obtain ⟨e, he⟩ := h d (by simp)
    obtain ⟨es, hes⟩ := ih fun d' hd' => h d' (by simp [hd'])
    simp only [extractFields, he, hes]
    exact ⟨_, rfl⟩

/-- No rule is selected for an empty register array: `minCount` is at least 1. -/
theorem selectRule_zero {c : Config} (hc : rulesWf c = true) (addr : Reg16) : selectRule addr 0 c.rules = none := by
  rw [selectRule_eq_find?, List.find?_eq_none]
  intro r hr
  obtain ⟨hcount, -⟩ := (ruleWf_iff c r).mp (ruleWf_of_mem hc hr)
  simp only [decide_eq_true_eq]
  omega

/-! ### Tables that grow or shadow (R154, R150) -/

theorem selectRule_append (addr : Reg16) (n : Nat) (rs qs : List Rule) :
    selectRule addr n (rs ++ qs) = (selectRule addr n rs).or (selectRule addr n qs) := by
  simp only [selectRule_eq_find?, List.find?_append]

/-- Settles O41: an appended rule is searched last; a shadowed one is found only where the rule before it, with another
key, is found first. -/
theorem appendedAndShadowedRules : Obligations.AppendedAndShadowedRules := by
  refine ⟨fun c q _ addr n => ⟨fun r hr => ?same, fun hnone => ?new⟩,
    fun c front mid back a b hc hrules haddr hcount addr n hsel => ?shadowed⟩
  case same => rw [selectRule_append, hr, Option.some_or]
  case new =>
    rw [selectRule_append, hnone, Option.none_or, selectRule]
    split
    · exact .inr rfl
    · exact .inl rfl
  case shadowed =>
    have hkeys : c.rules.Pairwise fun a b => ¬(a.addr = b.addr ∧ a.minCount = b.minCount) := by
      simp only [rulesWf, Bool.and_eq_true, wfKeyUnique_iff] at hc
      obtain ⟨⟨-, hkeys⟩, -⟩ := hc
      exact hkeys
    obtain ⟨-, hb, hbcount⟩ := selectRule_some hsel
    have hfound : selectRule addr n (a :: (mid ++ b :: back)) = some a := if_pos ⟨haddr.trans hb, by omega⟩
    rw [hrules, selectRule_append, hfound] at hsel
    rw [hrules, List.pairwise_append, List.pairwise_cons] at hkeys
    obtain ⟨-, ⟨hab, -⟩, hfront⟩ := hkeys
    cases hf : selectRule addr n front with
    | none =>
      rw [hf, Option.none_or, Option.some_inj] at hsel
      exact hab b (by simp) (by rw [hsel]; exact ⟨rfl, rfl⟩)
    | some r =>
      rw [hf, Option.some_or, Option.some_inj] at hsel
      obtain ⟨hr, -⟩ := selectRule_some hf
      exact hfront r hr b (by simp) (by rw [hsel]; exact ⟨rfl, rfl⟩)

end Sys2Proof.RuleTable
end

section
/-! PROOFS. Typed values (spec/10_state.md R29, spec/43_register_engine.md R140, R149): the range of every mantissa the
extraction function gives, and what scaling denotes. -/

namespace Sys2Proof.TypedValues

open Sys2Proof.Machine Sys2Proof.Laws Sys2Proof.Extraction

/-! ### The range of a mantissa (R29) -/

theorem extractValue_toInt_range (s : State) (kind : Kind) (idx k sc : Nat) :
    -32768 ≤ (extractValue s kind idx k sc).m.toInt ∧ (extractValue s kind idx k sc).m.toInt ≤ 4294967295 := by
  have hreg := (raReg s idx).isLt
  have hnext := (raReg s (idx + 1)).isLt
  cases kind with
  | u16 => rw [extractValue_u16_toInt]; omega
  | s16 => rw [extractValue_s16_toInt]; split <;> omega
  | u32h => rw [extractValue_u32h_toInt]; omega
  | u32l => rw [extractValue_u32l_toInt]; omega
  | hib => rw [extractValue_hib_toInt]; omega
  | lob => rw [extractValue_lob_toInt]; omega
  | bit => rw [extractValue_bit_toInt]; omega

theorem scale_t_ne_bool (m : Mantissa) (sc : Nat) : (scale m sc).t ≠ .bool := by
  unfold scale
  split <;> nofun

/-- Only `BIT` gives a `BOOL`, and it gives 0 or 1. -/
theorem extractValue_m_of_bool {s : State} {kind : Kind} {idx k sc : Nat}
    (h : (extractValue s kind idx k sc).t = .bool) :
    (extractValue s kind idx k sc).m = 0 ∨ (extractValue s kind idx k sc).m = 1 := by
  cases kind with
  | bit =>
    by_cases hbit : (raReg s idx).getLsbD k = true
    · exact .inr (by simp [extractValue, hbit])
    · exact .inl (by simp [extractValue, hbit])
  | hib | lob => cases h
  | _ => exact absurd h (scale_t_ne_bool _ _)

theorem typedLegal_extractValue (s : State) (kind : Kind) (idx k sc : Nat) :
    TypedLegal (extractValue s kind idx k sc).t (extractValue s kind idx k sc).m :=
  have ⟨hmin, hmax⟩ := extractValue_toInt_range s kind idx k sc
  ⟨hmin, hmax, extractValue_m_of_bool⟩

theorem typedLegal_zero : TypedLegal .int 0 := ⟨by decide, by decide, nofun⟩

/-! ### What scaling denotes (R140) -/

theorem scale_one (m : Mantissa) : scale m 1 = { t := .dec1, m := m } := rfl

/-- Tenths of an integer are already rounded to tenths. -/
theorem roundHalfUp1_div_ten (r : Int) : roundHalfUp1 ((r : ℚ) / 10) = (r : ℚ) / 10 := by
  have hfloor : ⌊10 * ((r : ℚ) / 10) + 1 / 2⌋ = r := by
    rw [Int.floor_eq_iff]
    constructor <;> linarith
  rw [roundHalfUp1, hfloor]

/-! ### The obligations -/

/-- Settles O36: one equation per kind, and the range they give. -/
theorem extractedValuesInIntegers : Obligations.ExtractedValuesInIntegers := by
  refine ⟨fun s idx k sc _ hsc => ⟨extractValue_u16_toInt .., extractValue_s16_toInt .., extractValue_u32h_toInt ..,
    extractValue_u32l_toInt .., extractValue_hib_toInt .., extractValue_lob_toInt .., extractValue_bit_toInt ..,
    fun kind hkind => extractValue_t_of_scaled s idx k sc hkind hsc, rfl, rfl, rfl,
    fun kind => extractValue_toInt_range s kind idx k sc⟩, fun s kind idx k sc => ?domain⟩
  case domain => simp only [extractDefined, Bool.and_eq_true, decide_eq_true_eq, and_assoc]

/-- Settles O37: the mantissa stays the raw integer, and its tenths are what rounding to tenths gives. -/
theorem scalingNeedsNoRounding : Obligations.ScalingNeedsNoRounding := by
  refine ⟨fun m => ⟨rfl, scale_one m, rfl, rfl, ?rounded⟩, roundHalfUp1_div_ten⟩
  case rounded => rw [mul_one_div, roundHalfUp1_div_ten]; rfl

end Sys2Proof.TypedValues
end

section
/-! PROOFS. The invariant (spec/10_state.md sections 4 and 5, spec/20_memory.md section 1) holds after reset and after
every step: one lemma for each update of the state, with what that update must meet; then each instruction and each
host action is one of these updates. -/

namespace Sys2Proof.InvariantKept

open Sys2Proof.Machine Sys2Proof.Laws Sys2Proof.Codec Sys2Proof.RuleTable Sys2Proof.TypedValues

/-! ### Reset (R200) -/

theorem invariant_reset {s : State} (hc : configWf s.cfg = true) (hs : s.toBlockState = BlockState.reset) :
    Invariant s := by
  obtain ⟨b, cfg, pending, delivered⟩ := s
  obtain rfl : b = BlockState.reset := hs
  exact {
    config := hc
    ibForm := rfl, vbForm := rfl, obForm := rfl, raForm := rfl, foForm := rfl
    ibBound := rfl, vbBound := rfl, obBound := rfl, raBound := rfl, foBound := rfl
    obLength := Nat.zero_le _, raLength := Nat.zero_le _, foLength := Nat.zero_le _
    emptied := fun _ => rfl, exclusive := nofun, normal := nofun, exception := nofun
    extracted := typedLegal_zero, fields := fun _ => typedLegal_zero, unknown := fun _ => rfl }

/-- Settles O55: every space is empty, every length and result zero. -/
theorem invariantHoldsAtReset : Obligations.InvariantHoldsAtReset :=
  ⟨fun _ hc => invariant_reset hc rfl, invariant_reset (by decide) rfl⟩

/-! ### The updates of the state -/

section updates

variable {s : State} (h : Invariant s)
include h

theorem invariant_setErr (e : ErrCode) : Invariant (setErr e s) := { h with }

theorem invariant_crcacc (c : Reg16) : Invariant { s with crcacc := c } := { h with }

theorem invariant_clearOb : Invariant (clearOb s) := { h with obLength := Nat.zero_le _ }

theorem invariant_storeFrame {f : List Byte} (hf : f.length ≤ obCap) : Invariant (storeFrame f s) :=
  { h with
    obForm := wf_writeSeq 0 f h.obForm
    obBound := below_writeSeq (by omega) h.obBound
    obLength := (Nat.mod_le _ _).trans hf }

theorem invariant_clearReq : Invariant (clearReq s) := { h with }

theorem invariant_acceptRequest : Invariant (acceptRequest s) := { h with }

theorem invariant_clearRsp : Invariant (clearRsp s) :=
  { h with
    raLength := Nat.zero_le _
    emptied := fun _ => rfl
    exclusive := nofun
    normal := nofun
    exception := nofun }

theorem invariant_acceptException (hfc : isExceptionCode (ibByte s 1) = true) : Invariant (acceptException s) :=
  { h with
    raLength := Nat.zero_le _
    emptied := fun _ => rfl
    exclusive := nofun
    normal := nofun
    exception := fun _ => ⟨hfc, rfl⟩ }

theorem invariant_acceptResponse (hfc : isExceptionCode (ibByte s 1) = false)
    (heven : (ibByte s 2).getLsbD 0 = false) : Invariant (acceptResponse s) := by
  have hcount := (ibByte s 2).isLt
  have hlen : (BitVec.ofNat 8 ((ibByte s 2).toNat / 2)).toNat = (ibByte s 2).toNat / 2 :=
    Nat.mod_eq_of_lt (by omega)
  have hdouble : 2 * ((ibByte s 2).toNat / 2) = (ibByte s 2).toNat := by
    have := (even_byte_iff _).mp heven
    omega
  exact { h with
    raForm := wf_writeSeq 0 _ h.raForm
    raBound := below_writeSeq (by rw [ibRegs_length, raCap]; omega) h.raBound
    raLength := by rw [acceptResponse_p, hlen, raCap]; omega
    emptied := nofun
    exclusive := fun _ => rfl
    normal := fun _ => ⟨by rw [acceptResponse_p, hlen, hdouble], hfc, rfl⟩
    exception := nofun }

theorem invariant_extraction {x : TypedValue} (hx : TypedLegal x.t x.m) : Invariant { s with xr := x } :=
  { h with extracted := hx }

theorem invariant_clearDb : Invariant (clearDb s) :=
  { h with foLength := Nat.zero_le _, unknown := fun _ => rfl }

theorem invariant_storeUnknown (fc : Byte) : Invariant (storeUnknown fc s) :=
  { h with foLength := Nat.zero_le _, unknown := fun _ => rfl }

theorem invariant_storeBlock (fc : Byte) {r : Rule} {es : List FieldEntry} (hid : r.blockId ≠ 0)
    (hes : es.length ≤ s.cfg.foCap) (hlegal : ∀ e ∈ es, TypedLegal e.t e.m) : Invariant (storeBlock fc r es s) :=
  { h with
    foForm := wf_writeSeq 0 es h.foForm
    foBound := below_writeSeq (by simpa using hes) h.foBound
    foLength := (Nat.mod_le _ _).trans hes
    fields := fun i => by
      rw [foEntry_storeBlock]
      split
      · exact hlegal _ (List.getElem_mem _)
      · exact h.fields i
    unknown := fun hzero => absurd hzero hid }

theorem invariant_loadInput {bs : List Byte} (hbs : bs.length ≤ s.cfg.bufCap) : Invariant (loadInput bs s) :=
  { h with
    ibForm := wf_writeSeq 0 bs h.ibForm
    ibBound := below_writeSeq (by simpa using hbs) h.ibBound }

end updates

/-! ### The instructions -/

theorem typedLegal_of_extractFields {s : State} {ds : List FieldDesc} {es : List FieldEntry}
    (hes : extractFields s ds = some es) : ∀ e ∈ es, TypedLegal e.t e.m := by
  intro e he
  obtain ⟨j, hj, rfl⟩ := List.getElem_of_mem he
  have hj' : j < ds.length := extractFields_length hes ▸ hj
  obtain ⟨kind, -, -, heq⟩ := extractField_some (extractFields_getElem hes j hj' hj)
  rw [heq]
  exact typedLegal_extractValue ..

section instructions

variable {s t : State}

theorem execEncWm_keeps_invariant (h : Invariant s) (ht : execEncWm s = .next t) : Invariant t := by
  obtain ⟨-, he⟩ | ⟨hlen, he⟩ := execEncWm_cases s <;> rw [he] at ht <;> cases ht
  · exact invariant_setErr (invariant_clearOb h) _
  · refine invariant_setErr (invariant_storeFrame h ?_) _
    simp only [withCrc_length, writeMultipleBody_length, vbSeq_length, obCap]
    omega

theorem execDecReq_keeps_invariant (h : Invariant s) (ht : execDecReq s = .next t) : Invariant t := by
  obtain ⟨-, he⟩ | ⟨-, -, he⟩ | ⟨-, -, -, he⟩ | ⟨-, -, -, he⟩ := execDecReq_cases s <;> rw [he] at ht <;> cases ht
  case inr.inr.inr => exact invariant_setErr (invariant_acceptRequest h) _
  all_goals exact invariant_setErr (invariant_clearReq h) _

theorem execDecRsp_keeps_invariant (h : Invariant s) (ht : execDecRsp s = .next t) : Invariant t := by
  obtain ⟨-, he⟩ | ⟨-, -, he⟩ | ⟨-, -, -, he⟩ | ⟨-, -, -, hfc, he⟩ | ⟨-, -, -, -, -, he⟩ | ⟨-, -, -, -, -, -, he⟩ |
    ⟨-, -, -, hfc, -, heven, he⟩ := execDecRsp_cases s <;> rw [he] at ht <;> cases ht
  case inr.inr.inr.inl => exact invariant_setErr (invariant_acceptException h hfc) _
  case inr.inr.inr.inr.inr.inr => exact invariant_setErr (invariant_acceptResponse h hfc heven) _
  all_goals exact invariant_setErr (invariant_clearRsp h) _

theorem extCommand_keeps_invariant {kind : Kind} {idx : Byte} {k : BitVec 4} {sc : BitVec 2} (h : Invariant s)
    (ht : extCommand kind idx k sc s = .next t) : Invariant t := by
  obtain ⟨-, he⟩ | ⟨-, -, he⟩ | ⟨-, -, -, he⟩ | ⟨-, -, -, -, he⟩ | ⟨-, -, -, -, he⟩ :=
    extCommand_cases kind idx k sc s <;> rw [he] at ht <;> cases ht
  case inr.inr.inr.inr => exact invariant_setErr (invariant_extraction h (typedLegal_extractValue ..)) _
  all_goals exact invariant_setErr (invariant_extraction h typedLegal_zero) _

theorem execRdeDecode_keeps_invariant {fc : Byte} (h : Invariant s) (ht : execRdeDecode fc s = .next t) :
    Invariant t := by
  obtain ⟨-, rfl⟩ | ⟨-, -, rfl⟩ | ⟨-, r, es, hsel, hes, hfit, rfl⟩ := execRdeDecode_next ht
  · exact invariant_setErr (invariant_clearDb h) _
  · exact invariant_setErr (invariant_storeUnknown h fc) _
  · obtain ⟨hr, -⟩ := selectRule_some hsel
    obtain ⟨-, -, hid, hlen, -⟩ := (ruleWf_iff _ r).mp (ruleWf_of_mem (rulesWf_of_configWf h.config) hr)
    have hes' : es.length ≤ s.cfg.foCap := extractFields_length hes ▸ hlen
    exact invariant_setErr (invariant_storeBlock h fc hid hes' (typedLegal_of_extractFields hes)) _

theorem presentFrame_keeps_invariant {bs : List Byte} (h : Invariant s) (ht : presentFrame bs s = .next t) :
    Invariant t := by
  obtain ⟨hfits, -, rfl⟩ := presentFrame_next ht
  exact invariant_loadInput h hfits

theorem exec_keeps_invariant {i : Instr} (h : Invariant s) (ht : exec i s = .next t) : Invariant t := by
  cases i with
  | crcInit => cases ht; exact invariant_setErr (invariant_crcacc h _) _
  | crcByte b => cases ht; exact invariant_setErr (invariant_crcacc h _) _
  | crcBuf =>
    change execCrcBuf s = .next t at ht
    obtain ⟨-, he⟩ | ⟨-, he⟩ := execCrcBuf_cases s <;> rw [he] at ht <;> cases ht <;>
      exact invariant_setErr (invariant_crcacc h _) _
  | encRd => cases ht; exact invariant_setErr (invariant_storeFrame h (by simp [obCap])) _
  | encWs => cases ht; exact invariant_setErr (invariant_storeFrame h (by simp [obCap])) _
  | encWm => exact execEncWm_keeps_invariant h ht
  | decReq => exact execDecReq_keeps_invariant h ht
  | decRsp => exact execDecRsp_keeps_invariant h ht
  | extU16 | extS16 | extU32H | extU32L | extHib | extLob | extBit => exact extCommand_keeps_invariant h ht
  | rdeDecode fc => exact execRdeDecode_keeps_invariant h ht
  | sreset => cases ht; exact invariant_reset h.config rfl
  | frameReadReq | frameWriteSingleReq | frameWriteMultipleReq | frameNormalRsp | frameExceptionRsp =>
    exact presentFrame_keeps_invariant h ht

theorem runCode_keeps_invariant {c : Code} (h : Invariant s) (ht : runCode c s = .next t) : Invariant t := by
  obtain ⟨i, -, he⟩ | ⟨-, -, -, -, rfl⟩ | ⟨bs, -, -, -, he⟩ := runCode_next ht
  · exact exec_keeps_invariant h he
  · exact invariant_setErr h _
  · exact presentFrame_keeps_invariant h he

/-! ### The host's actions -/

theorem hostWrite_keeps_invariant {tg : Target} {v : Nat} (h : Invariant s) (ht : hostWrite tg v s = .next t) :
    Invariant t := by
  rcases hostWrite_next ht with ⟨-, rfl⟩ | ⟨-, rfl⟩ | ⟨-, rfl⟩ | ⟨i, -, hi, rfl⟩ | ⟨-, rfl⟩ | ⟨i, -, hi, rfl⟩ |
    ⟨-, rfl⟩ | ⟨-, rfl⟩ | ⟨-, -, he⟩
  case inr.inr.inr.inl => exact { h with ibForm := wf_write i _ h.ibForm, ibBound := below_write hi h.ibBound }
  case inr.inr.inr.inr.inr.inl =>
    exact { h with vbForm := wf_write i _ h.vbForm, vbBound := below_write hi h.vbBound }
  case inr.inr.inr.inr.inr.inr.inr.inr => exact runCode_keeps_invariant h he
  all_goals exact { h with }

theorem perform_keeps_invariant {a : HostAction} (h : Invariant s) (ht : perform a s = .next t) : Invariant t := by
  cases a with
  | write tg v => exact hostWrite_keeps_invariant h ht
  | read tg => obtain ⟨v, -, rfl⟩ := hostRead_next ht; exact { h with }
  | issue w => exact runCode_keeps_invariant h ht
  | request bs => exact runCode_keeps_invariant h ht
  | response bs => exact runCode_keeps_invariant h ht
  | hardReset => cases ht; exact invariant_reset h.config rfl

end instructions

theorem invariant_takeAction {s : State} (h : Invariant s) (rest : List HostAction) :
    Invariant (takeAction s rest) := { h with }

/-- Settles O56: a step does nothing, or performs one action on a state that meets the invariant. -/
theorem everyStepKeepsTheInvariant : Obligations.EveryStepKeepsTheInvariant := by
  intro s t h ht
  obtain ⟨-, ⟨-, rfl⟩ | ⟨a, rest, -, hperform⟩⟩ := step_next ht
  · exact h
  · exact perform_keeps_invariant (invariant_takeAction h rest) hperform

end Sys2Proof.InvariantKept
end

section
/-! PROOFS. What each instruction writes (spec/10_state.md section 1): the frames of the encoder, the response parse,
the
rule decode and an arriving frame, then the writers of every result, and what that leaves of the checksum stream. -/

namespace Sys2Proof.Writers

open Sys2Proof.Machine Sys2Proof.Laws Sys2Proof.Checksum Sys2Proof.RequestParse Sys2Proof.Extraction

/-! ### The frames of the remaining units -/

section frames

variable (s : State) (e : ErrCode)

theorem onlyOutput_setErr (o : OutputBuffer) : OnlyOutput s (setErr e { s with ob := o }) := by
  refine ⟨?host, ?inputs, ?checksum, ?request, ?response, ?extraction, ?block, ?flags⟩
  case host => exact ⟨rfl, rfl, rfl⟩
  case inputs => exact ⟨rfl, rfl, fun _ => rfl, rfl, fun _ => rfl, rfl⟩
  case checksum => rfl
  case request => rfl
  case response => exact ⟨rfl, rfl, rfl, rfl, rfl, fun _ => rfl⟩
  case extraction => rfl
  case block => exact ⟨rfl, rfl, rfl, rfl, fun _ => rfl⟩
  case flags => exact ⟨rfl, rfl, rfl⟩

theorem onlyResponse_setErr (p : ResponseResult) (st : Status) :
    OnlyResponse s (setErr e { s with p := p, status := st }) := by
  refine ⟨?host, ?inputs, ?checksum, ?output, ?request, ?extraction, ?block⟩
  case host => exact ⟨rfl, rfl, rfl⟩
  case inputs => exact ⟨rfl, rfl, fun _ => rfl, rfl, fun _ => rfl, rfl⟩
  case checksum => rfl
  case output => exact ⟨rfl, fun _ => rfl⟩
  case request => rfl
  case extraction => rfl
  case block => exact ⟨rfl, rfl, rfl, rfl, fun _ => rfl⟩

theorem onlyBlock_setErr (d : DecodeResult) : OnlyBlock s (setErr e { s with db := d }) := by
  refine ⟨?host, ?inputs, ?checksum, ?output, ?request, ?response, ?extraction, ?flags⟩
  case host => exact ⟨rfl, rfl, rfl⟩
  case inputs => exact ⟨rfl, rfl, fun _ => rfl, rfl, fun _ => rfl, rfl⟩
  case checksum => rfl
  case output => exact ⟨rfl, fun _ => rfl⟩
  case request => rfl
  case response => exact ⟨rfl, rfl, rfl, rfl, rfl, fun _ => rfl⟩
  case extraction => rfl
  case flags => exact ⟨rfl, rfl, rfl⟩

/-- What the host writes apart from `IB` and `IBLEN`. -/
def SameOperands (s t : State) : Prop :=
  t.op = s.op ∧ t.vb.len = s.vb.len ∧ (∀ j, vbCell t j = vbCell s j) ∧ t.strict = s.strict

theorem sameOperands_of_sameInputs {s t : State} (h : SameInputs s t) : SameOperands s t :=
  have ⟨hop, _, _, hlen, hcells, hstrict⟩ := h
  ⟨hop, hlen, hcells, hstrict⟩

/-- An arriving frame writes `IB` and `IBLEN` alone (log 4). -/
theorem sameResults_loadInput (bs : List Byte) : SameOperands s (loadInput bs s) ∧ SameResults s (loadInput bs s) := by
  refine ⟨⟨rfl, rfl, fun _ => rfl, rfl⟩, ⟨rfl, rfl, rfl⟩, ?checksum, ?output, ?request, ?response, ?extraction,
    ?block, rfl⟩
  case checksum => rfl
  case output => exact ⟨rfl, fun _ => rfl⟩
  case request => rfl
  case response => exact ⟨rfl, rfl, rfl, rfl, rfl, fun _ => rfl⟩
  case extraction => rfl
  case block => exact ⟨rfl, rfl, rfl, rfl, fun _ => rfl⟩

end frames

/-! ### The frame of each instruction -/

section instructions

variable {s t : State}

theorem execCrcBuf_frame (h : exec .crcBuf s = .next t) : OnlyChecksum s t := by
  obtain ⟨-, he⟩ | ⟨-, he⟩ := execCrcBuf_cases s <;> cases he.symm.trans h <;> exact onlyChecksum_withChecksum _ _ s

theorem execEncWm_frame (h : exec .encWm s = .next t) : OnlyOutput s t := by
  obtain ⟨-, he⟩ | ⟨-, he⟩ := execEncWm_cases s <;> cases he.symm.trans h <;> exact onlyOutput_setErr s _ _

theorem execDecReq_frame (h : exec .decReq s = .next t) : OnlyRequest s t := by
  obtain ⟨-, he⟩ | ⟨-, -, he⟩ | ⟨-, -, -, he⟩ | ⟨-, -, -, he⟩ := execDecReq_cases s <;> cases he.symm.trans h <;>
    exact onlyRequest_withRequest _ _ _ s

theorem execDecRsp_frame (h : exec .decRsp s = .next t) : OnlyResponse s t := by
  obtain ⟨-, he⟩ | ⟨-, -, he⟩ | ⟨-, -, -, he⟩ | ⟨-, -, -, -, he⟩ | ⟨-, -, -, -, -, he⟩ | ⟨-, -, -, -, -, -, he⟩ |
    ⟨-, -, -, -, -, -, he⟩ := execDecRsp_cases s <;> cases he.symm.trans h <;> exact onlyResponse_setErr s _ _ _

theorem exec_extraction_frame {i : Instr} (hi : (extOperands i).isSome = true) (h : exec i s = .next t) :
    OnlyExtraction s t := by
  obtain ⟨⟨kind, idx, k, sc⟩, hops⟩ := Option.isSome_iff_exists.mp hi
  obtain ⟨a, b, c, -, -, -, hexec⟩ := exec_eq_extCommand hops s
  obtain ⟨e, x, rfl⟩ := extCommand_next (hexec ▸ h)
  exact onlyExtraction_withExtraction x e s

theorem execRdeDecode_frame {fc : Byte} (h : exec (.rdeDecode fc) s = .next t) : OnlyBlock s t := by
  obtain ⟨-, rfl⟩ | ⟨-, -, rfl⟩ | ⟨-, r, es, -, -, -, rfl⟩ := execRdeDecode_next h <;> exact onlyBlock_setErr s _ _

/-- Whatever its outcome, an instruction writes the results of its own unit; `SRESET` writes them all. -/
theorem exec_frame {i : Instr} (h : exec i s = .next t) :
    ((i = .crcInit ∨ i = .crcBuf ∨ ∃ b, i = .crcByte b) ∧ OnlyChecksum s t) ∨
    ((i = .encRd ∨ i = .encWs ∨ i = .encWm) ∧ OnlyOutput s t) ∨
    (i = .decReq ∧ OnlyRequest s t) ∨
    (i = .decRsp ∧ OnlyResponse s t) ∨
    ((extOperands i).isSome = true ∧ OnlyExtraction s t) ∨
    ((∃ fc, i = .rdeDecode fc) ∧ OnlyBlock s t) ∨
    (i = .sreset ∧ t = resetBlock s) ∨
    (i.isCommand = false ∧ SameOperands s t ∧ SameResults s t) := by
  cases i with
  | crcInit => cases h; exact .inl ⟨by simp, onlyChecksum_withChecksum _ _ s⟩
  | crcByte b => cases h; exact .inl ⟨by simp, onlyChecksum_withChecksum _ _ s⟩
  | crcBuf => exact .inl ⟨by simp, execCrcBuf_frame h⟩
  | encRd => cases h; exact .inr (.inl ⟨by simp, onlyOutput_setErr s _ _⟩)
  | encWs => cases h; exact .inr (.inl ⟨by simp, onlyOutput_setErr s _ _⟩)
  | encWm => exact .inr (.inl ⟨by simp, execEncWm_frame h⟩)
  | decReq => exact .inr (.inr (.inl ⟨rfl, execDecReq_frame h⟩))
  | decRsp => exact .inr (.inr (.inr (.inl ⟨rfl, execDecRsp_frame h⟩)))
  | extU16 | extS16 | extU32H | extU32L | extHib | extLob | extBit =>
    exact .inr (.inr (.inr (.inr (.inl ⟨rfl, exec_extraction_frame rfl h⟩))))
  | rdeDecode fc => exact .inr (.inr (.inr (.inr (.inr (.inl ⟨⟨fc, rfl⟩, execRdeDecode_frame h⟩)))))
  | sreset => cases h; exact .inr (.inr (.inr (.inr (.inr (.inr (.inl ⟨rfl, rfl⟩))))))
  | frameReadReq | frameWriteSingleReq | frameWriteMultipleReq | frameNormalRsp | frameExceptionRsp =>
    obtain ⟨bs, rfl⟩ := exec_frame_next rfl h
    exact .inr (.inr (.inr (.inr (.inr (.inr (.inr ⟨rfl, sameResults_loadInput s bs⟩))))))

end instructions

/-- Settles O58: the unit an instruction belongs to fixes which clauses say something of it, and its frame gives them.
-/
theorem eachResultHasItsWriters : Obligations.EachResultHasItsWriters := by
  intro i s t h
  obtain ⟨hi, hhost, hin, hout, hreq, hrsp, hext, hblock, hexc, hcrc, hrav⟩ |
    ⟨hi, hhost, hin, hsum, hreq, hrsp, hext, hblock, hexc, hcrc, hrav⟩ |
    ⟨rfl, hhost, hin, hsum, hout, hrsp, hext, hblock, hexc, hrav⟩ |
    ⟨rfl, hhost, hin, hsum, hout, hreq, hext, hblock⟩ |
    ⟨hi, hhost, hin, hsum, hout, hreq, hrsp, hblock, hexc, hcrc, hrav⟩ |
    ⟨⟨fc, rfl⟩, hhost, hin, hsum, hout, hreq, hrsp, hext, hexc, hcrc, hrav⟩ |
    ⟨rfl, rfl⟩ |
    ⟨hi, hops, hhost, hsum, hout, hreq, hrsp, hext, hblock, hstatus⟩ := exec_frame h
  case inl =>
    obtain ⟨hop, hvlen, hvb, hstrict⟩ := sameOperands_of_sameInputs hin
    rcases hi with rfl | rfl | ⟨b, rfl⟩ <;> simp [*, Instr.isCommand]
  case inr.inl =>
    obtain ⟨hop, hvlen, hvb, hstrict⟩ := sameOperands_of_sameInputs hin
    rcases hi with rfl | rfl | rfl <;> simp [*, Instr.isCommand]
  case inr.inr.inl =>
    obtain ⟨hop, hvlen, hvb, hstrict⟩ := sameOperands_of_sameInputs hin
    simp [*, Instr.isCommand]
  case inr.inr.inr.inl =>
    obtain ⟨hop, hvlen, hvb, hstrict⟩ := sameOperands_of_sameInputs hin
    simp [*, Instr.isCommand]
  case inr.inr.inr.inr.inl =>
    obtain ⟨hop, hvlen, hvb, hstrict⟩ := sameOperands_of_sameInputs hin
    have hnone : extOperands i ≠ none := Option.isSome_iff_ne_none.mp hi
    have hcommand : i.isCommand = true := by cases i <;> first | rfl | cases hi
    simp [*]
  case inr.inr.inr.inr.inr.inl =>
    obtain ⟨hop, hvlen, hvb, hstrict⟩ := sameOperands_of_sameInputs hin
    simp [*, Instr.isCommand]
  case inr.inr.inr.inr.inr.inr.inl => simp [SameHost, Instr.isCommand]
  case inr.inr.inr.inr.inr.inr.inr =>
    obtain ⟨hop, hvlen, hvb, hstrict⟩ := hops
    simp [*]

/-! ### The checksum stream (R25, R207) -/

theorem fedBytes_cons (i : Instr) (is : List Instr) : fedBytes (i :: is) = fedBytes [i] ++ fedBytes is := by
  cases i <;> rfl

theorem fedBytes_singleton_of_ne {i : Instr} (hi : ∀ b, i ≠ .crcByte b) : fedBytes [i] = [] := by
  cases i with
  | crcByte b => exact absurd rfl (hi b)
  | _ => rfl

/-- An instruction that does not restart the stream feeds it the byte of a `CRC.BYTE`, or nothing. -/
theorem exec_crcacc {i : Instr} {s t : State} (h : exec i s = .next t)
    (hi : i ≠ .crcInit ∧ i ≠ .crcBuf ∧ i ≠ .sreset) : t.crcacc = crcFeed s.crcacc (fedBytes [i]) := by
  obtain ⟨hinit, hbuf, hreset⟩ := hi
  by_cases hbyte : ∃ b, i = .crcByte b
  · obtain ⟨b, rfl⟩ := hbyte
    cases h
    rfl
  · have hne : ∀ b, i ≠ .crcByte b := fun b hb => hbyte ⟨b, hb⟩
    obtain ⟨-, -, -, hsum, -⟩ := eachResultHasItsWriters i s t h
    rw [fedBytes_singleton_of_ne hne]
    exact hsum hreset hinit hbuf hne

/-- A run of instructions goes through the state that its first one answers. -/
theorem execAll_cons_next {i : Instr} {is : List Instr} {s t : State} (h : execAll (i :: is) s = .next t) :
    ∃ u, exec i s = .next u ∧ execAll is u = .next t := by
  rw [execAll] at h
  split at h
  next u hu => exact ⟨u, hu, h⟩
  next => cases h
  next => cases h

theorem crcFeed_append (a : Reg16) (u v : List Byte) : crcFeed a (u ++ v) = crcFeed (crcFeed a u) v :=
  List.foldl_append

theorem execAll_crcacc {is : List Instr} {s t : State} (hi : ∀ i ∈ is, i ≠ .crcInit ∧ i ≠ .crcBuf ∧ i ≠ .sreset)
    (h : execAll is s = .next t) : t.crcacc = crcFeed s.crcacc (fedBytes is) := by
  induction is generalizing s with
  | nil => cases h; rfl
  | cons i is ih =>
    obtain ⟨u, hexec, hrest⟩ := execAll_cons_next h
    rw [ih (fun j hj => hi j (by simp [hj])) hrest, exec_crcacc hexec (hi i (by simp)), fedBytes_cons i is,
      crcFeed_append]

theorem perform_crcacc {a : HostAction} {s t : State} (ha : ¬RestartsStream a) (h : perform a s = .next t) :
    t.crcacc = crcFeed s.crcacc (fedByAction a) := by
  obtain ⟨i, hi, hexec⟩ | ⟨rfl, -⟩ | ⟨-, hi, ht⟩ := perform_next h
  · have hne : i ≠ .crcInit ∧ i ≠ .crcBuf ∧ i ≠ .sreset := by
      refine ⟨?_, ?_, ?_⟩ <;> rintro rfl <;> exact ha (by simp [RestartsStream, hi])
    rw [exec_crcacc hexec hne, fedByAction, hi, Option.toList_some]
  · exact absurd (.inl rfl) ha
  · rw [fedByAction, hi, Option.toList_none]
    obtain rfl | ht := ht
    · rfl
    · rw [ht]; rfl

/-- What one more step adds to a run. -/
theorem runSteps_succ_next {n : Nat} {s t : State} (h : runSteps (n + 1) s = .next t) :
    ∃ u, step s = .next u ∧ runSteps n u = .next t := by
  rw [runSteps] at h
  split at h
  next u hu => exact ⟨u, hu, h⟩
  next => cases h
  next => cases h

theorem runSteps_crcacc {n : Nat} {s t : State} (ha : ∀ a ∈ s.pending.take n, ¬RestartsStream a)
    (h : runSteps n s = .next t) : t.crcacc = crcFeed s.crcacc ((s.pending.take n).flatMap fedByAction) := by
  induction n generalizing s with
  | zero => cases h; simp [crcFeed]
  | succ n ih =>
    obtain ⟨u, hstep, hrun⟩ := runSteps_succ_next h
    obtain ⟨-, ⟨hp, hidle⟩ | ⟨a, rest, hp, hperform⟩⟩ := step_next hstep
    · rw [hidle] at hrun
      simpa [hp] using ih (by simp [hp]) hrun
    · obtain ⟨-, hpending⟩ := perform_keeps hperform
      rw [takeAction_pending] at hpending
      rw [hp, List.take_succ_cons] at ha ⊢
      rw [ih (fun a' ha' => ha a' (by rw [hpending] at ha'; simp [ha'])) hrun, perform_crcacc (ha a (by simp)) hperform,
        hpending, List.flatMap_cons, crcFeed_append, takeAction_crcacc]

/-- A stream that continues one from `CRC.INIT` has the checksum of all its bytes (R105). -/
theorem crc16_append (u v : List Byte) : crc16 (u ++ v) = crcFeed (crc16 u) v := crcFeed_append _ u v

/-- Settles O14, by induction on the instructions of a run and on the steps. -/
theorem otherCommandsLeaveTheStreamAlone : Obligations.OtherCommandsLeaveTheStreamAlone := by
  refine ⟨fun is s t hi h => ⟨execAll_crcacc hi h, fun pre hpre => ?_⟩,
    fun n s t ha h => ⟨runSteps_crcacc ha h, fun pre hpre => ?_⟩⟩
  · rw [execAll_crcacc hi h, hpre, crc16_append]
  · rw [runSteps_crcacc ha h, hpre, crc16_append]

end Sys2Proof.Writers
end

section
/-! PROOFS. The rule decode (spec/43_register_engine.md R150 to R154): what `RDE.DECODE` answers, that it and the
extraction commands are functions of their inputs, and that every command completes with a listed outcome (R180). -/

namespace Sys2Proof.RuleDecode

open Sys2Proof.Machine Sys2Proof.Laws Sys2Proof.RuleTable Sys2Proof.CommandWords Sys2Proof.Extraction
open Sys2Proof.Checksum Sys2Proof.Writers

/-! ### What `RDE.DECODE` answers (R151, R152) -/

section answers

variable {fc : Byte} {s : State}

theorem exec_rdeDecode_of_blocked (hrav : s.status.rav = false) :
    exec (.rdeDecode fc) s = .next (setErr .decodeBlocked (clearDb s)) := if_pos hrav

theorem exec_rdeDecode_of_none (hrav : s.status.rav = true)
    (hsel : selectRule s.op.addr s.p.ralen.toNat s.cfg.rules = none) :
    exec (.rdeDecode fc) s = .next (setErr .ok (storeUnknown fc s)) := by
  simp [exec, execRdeDecode, hrav, hsel, finish]

theorem exec_rdeDecode_of_entries {r : Rule} {es : List FieldEntry} (hrav : s.status.rav = true)
    (hsel : selectRule s.op.addr s.p.ralen.toNat s.cfg.rules = some r) (hes : extractFields s r.fields = some es)
    (hfit : wfNfields s.cfg r = true) : exec (.rdeDecode fc) s = .next (setErr .ok (storeBlock fc r es s)) := by
  simp [exec, execRdeDecode, hrav, hsel, hes, hfit, finish]

/-- A selected rule of a well-formed table has all its entries, and they fit. -/
theorem entries_of_selected {r : Rule} (hc : rulesWf s.cfg = true)
    (hsel : selectRule s.op.addr s.p.ralen.toNat s.cfg.rules = some r) :
    wfNfields s.cfg r = true ∧ ∃ es, extractFields s r.fields = some es := by
  obtain ⟨hr, -, hcount⟩ := selectRule_some hsel
  have hwf := ruleWf_of_mem hc hr
  obtain ⟨-, -, -, hlen, -⟩ := (ruleWf_iff _ r).mp hwf
  exact ⟨decide_eq_true hlen, extractFields_of_forall fun d hd => extractField_of_wf hwf hcount hd⟩

theorem exec_rdeDecode_completes (hc : rulesWf s.cfg = true) :
    ∃ t, exec (.rdeDecode fc) s = .next t ∧ (t.status.err = .ok ∨ t.status.err = .decodeBlocked) := by
  cases hrav : s.status.rav with
  | false => exact ⟨_, exec_rdeDecode_of_blocked hrav, .inr rfl⟩
  | true =>
    cases hsel : selectRule s.op.addr s.p.ralen.toNat s.cfg.rules with
    | none => exact ⟨_, exec_rdeDecode_of_none hrav hsel, .inl rfl⟩
    | some r =>
      obtain ⟨hfit, es, hes⟩ := entries_of_selected hc hsel
      exact ⟨_, exec_rdeDecode_of_entries hrav hsel hes hfit, .inl rfl⟩

end answers

/-- Settles O39: blocked, no rule, or the entries of the selected one, each at its descriptor's place. -/
theorem ruleDecodeFollowsItsCases : Obligations.RuleDecodeFollowsItsCases := by
  refine ⟨decodeCommand_byte (opc := 0x38#8) (by simp [opcodeMap, byteRow, commandWord]) rfl,
    fun fc s hc => ⟨fun hrav => ?blocked, fun hrav hsel => ?unknown, fun hempty => ?empty, fun r hrav hsel => ?block⟩⟩
  case blocked =>
    exact ⟨_, exec_rdeDecode_of_blocked hrav, rfl, rfl, rfl, rfl, fun _ => rfl, rfl, onlyBlock_setErr s _ _⟩
  case unknown =>
    exact ⟨_, exec_rdeDecode_of_none hrav hsel, rfl, rfl, rfl, rfl, fun _ => rfl, rfl, onlyBlock_setErr s _ _⟩
  case empty => rw [hempty]; exact selectRule_zero (rulesWf_of_configWf hc) _
  case block =>
    obtain ⟨-, -, -, hcap, hrules⟩ := (configWf_iff _).mp hc
    obtain ⟨hfit, es, hes⟩ := entries_of_selected hrules hsel
    obtain ⟨hr, -⟩ := selectRule_some hsel
    obtain ⟨-, -, hid, hfields, -⟩ := (ruleWf_iff _ r).mp (ruleWf_of_mem hrules hr)
    have hlen := extractFields_length hes
    have hentry (j : Nat) : foEntry (setErr .ok (storeBlock fc r es s)) j =
        if h : j < es.length then es[j] else foEntry s j := foEntry_storeBlock fc r es s j
    refine ⟨_, exec_rdeDecode_of_entries hrav hsel hes hfit, rfl, hid, rfl, rfl, ?folen, fun j d hd => ?entry,
      fun j hj => ?beyond, rfl, onlyBlock_setErr s _ _⟩
    case folen => rw [← hlen]; exact Nat.mod_eq_of_lt (by omega)
    case entry =>
      obtain ⟨hj, rfl⟩ := List.getElem?_eq_some_iff.mp hd
      have hj' : j < es.length := hlen ▸ hj
      obtain ⟨kind, hkind, hdefined, heq⟩ := extractField_some (extractFields_getElem hes j hj hj')
      exact ⟨kind, hkind, hdefined, by rw [hentry, dif_pos hj', heq]⟩
    case beyond => rw [hentry, dif_neg (by omega)]

/-! ### The engine is a function of its inputs (R153) -/

/-- The same register array as far as the engine may read it, and the same `RAV`. -/
def SameRegisters (s₁ s₂ : State) : Prop :=
  s₁.p.ralen = s₂.p.ralen ∧ s₁.status.rav = s₂.status.rav ∧ ∀ i, i < s₁.p.ralen.toNat → raReg s₁ i = raReg s₂ i

section inputs

variable {s₁ s₂ : State}

theorem extractValue_congr (h : SameRegisters s₁ s₂) {kind : Kind} {idx : Nat} (k sc : Nat)
    (hidx : idx + span kind ≤ s₁.p.ralen.toNat) :
    extractValue s₁ kind idx k sc = extractValue s₂ kind idx k sc := by
  obtain ⟨-, -, hra⟩ := h
  have hone : 1 ≤ span kind := by cases kind <;> decide
  have hfirst := hra idx (by omega)
  cases kind with
  | u32h | u32l =>
    have hsecond := hra (idx + 1) (by simp only [span] at hidx; omega)
    simp only [extractValue, hfirst, hsecond]
  | _ => simp only [extractValue, hfirst]

theorem extractField_congr (h : SameRegisters s₁ s₂) (d : FieldDesc) : extractField s₁ d = extractField s₂ d := by
  unfold extractField
  split
  next => rfl
  next kind _ =>
    have hdefined : extractDefined s₁ kind d.idx d.k d.sc = extractDefined s₂ kind d.idx d.k d.sc := by
      obtain ⟨hlen, -⟩ := h
      rw [extractDefined, extractDefined, hlen]
    rw [← hdefined]
    split
    next hd =>
      simp only [extractDefined, Bool.and_eq_true, decide_eq_true_eq] at hd
      obtain ⟨⟨hidx, -⟩, -⟩ := hd
      rw [extractValue_congr h d.k d.sc hidx]
    next => rfl

theorem extractFields_congr (h : SameRegisters s₁ s₂) (ds : List FieldDesc) :
    extractFields s₁ ds = extractFields s₂ ds := by
  induction ds with
  | nil => rfl
  | cons d ds ih => simp only [extractFields, extractField_congr h, ih]

theorem extractable_congr (h : SameRegisters s₁ s₂) (idx n sc : Nat) :
    Extractable s₁ idx n sc ↔ Extractable s₂ idx n sc := by
  obtain ⟨hlen, hrav, -⟩ := h
  rw [Extractable, Extractable, hlen, hrav]

theorem exec_extraction_congr {i : Instr} (hi : (extOperands i).isSome = true) (h : SameRegisters s₁ s₂) :
    ∃ t₁ t₂, exec i s₁ = .next t₁ ∧ exec i s₂ = .next t₂ ∧ t₁.xr = t₂.xr ∧ t₁.status.err = t₂.status.err := by
  obtain ⟨⟨kind, idx, k, sc⟩, hops⟩ := Option.isSome_iff_exists.mp hi
  by_cases hx : Extractable s₁ idx (span kind) sc ∧ k ≤ 7
  · obtain ⟨hx₁, hk⟩ := hx
    have ⟨_, _, hidx⟩ := hx₁
    have hx₂ := (extractable_congr h idx (span kind) sc).mp hx₁
    exact ⟨_, _, exec_of_extractable hops hx₁ hk, exec_of_extractable hops hx₂ hk, extractValue_congr h k sc hidx, rfl⟩
  · have hx₂ : ¬(Extractable s₂ idx (span kind) sc ∧ k ≤ 7) := by rwa [← extractable_congr h]
    refine ⟨_, _, exec_of_not_extractable hops hx, exec_of_not_extractable hops hx₂, rfl, ?_⟩
    obtain ⟨-, hrav, -⟩ := h
    show firstFailure s₁ k sc = firstFailure s₂ k sc
    rw [firstFailure, firstFailure, hrav]

/-- What `RDE.DECODE` answers in one state it answers in another with the same inputs, as long as the rules fit `FO`. -/
theorem exec_rdeDecode_congr {fc : Byte} {t₁ : State} (h : SameRegisters s₁ s₂) (hrules : s₁.cfg.rules = s₂.cfg.rules)
    (haddr : s₁.op.addr = s₂.op.addr)
    (hfit : ∀ r ∈ s₁.cfg.rules, wfNfields s₁.cfg r = true → wfNfields s₂.cfg r = true)
    (ht₁ : exec (.rdeDecode fc) s₁ = .next t₁) :
    ∃ t₂, exec (.rdeDecode fc) s₂ = .next t₂ ∧ t₁.db.id = t₂.db.id ∧ t₁.db.fc = t₂.db.fc ∧ t₁.db.addr = t₂.db.addr ∧
      t₁.db.folen = t₂.db.folen ∧ (∀ j, j < t₁.db.folen.toNat → foEntry t₁ j = foEntry t₂ j) ∧
      t₁.status.err = t₂.status.err := by
  have ⟨hlen, hrav, _⟩ := h
  obtain ⟨hrav₁, rfl⟩ | ⟨hrav₁, hsel, rfl⟩ | ⟨hrav₁, r, es, hsel, hes, hfit₁, rfl⟩ := execRdeDecode_next ht₁
  · exact ⟨_, exec_rdeDecode_of_blocked (hrav ▸ hrav₁), rfl, rfl, rfl, rfl,
      fun _ hj => absurd hj (Nat.not_lt_zero _), rfl⟩
  · refine ⟨_, exec_rdeDecode_of_none (hrav ▸ hrav₁) ?_, rfl, rfl, haddr, rfl,
      fun _ hj => absurd hj (Nat.not_lt_zero _), rfl⟩
    rw [← haddr, ← hlen, ← hrules]
    exact hsel
  · obtain ⟨hr, -⟩ := selectRule_some hsel
    have hsel₂ : selectRule s₂.op.addr s₂.p.ralen.toNat s₂.cfg.rules = some r := by
      rw [← haddr, ← hlen, ← hrules]
      exact hsel
    have hes₂ : extractFields s₂ r.fields = some es := extractFields_congr h r.fields ▸ hes
    refine ⟨_, exec_rdeDecode_of_entries (hrav ▸ hrav₁) hsel₂ hes₂ (hfit r hr hfit₁), rfl, rfl, haddr, rfl,
      fun j hj => ?_, rfl⟩
    have hj' : j < es.length := lt_of_lt_of_le hj (Nat.mod_le _ _)
    have hentry (s : State) : foEntry (setErr .ok (storeBlock fc r es s)) j = es[j] :=
      (foEntry_storeBlock fc r es s j).trans (dif_pos hj')
    rw [hentry, hentry]

end inputs

/-- A command that leaves the response parse and `RAV` alone leaves the engine's registers. -/
theorem sameRegisters_of_frame {s t : State} (hrsp : SameResponse s t) (hflags : SameFlags s t) :
    SameRegisters s t := by
  obtain ⟨-, -, -, -, hlen, hra⟩ := hrsp
  obtain ⟨-, -, hrav⟩ := hflags
  exact ⟨hlen.symm, hrav.symm, fun i _ => (hra i).symm⟩

/-- Settles O40: two states with the same inputs, and the case that the second is what the first one answered. -/
theorem decodingIsAFunctionOfItsInputs : Obligations.DecodingIsAFunctionOfItsInputs := by
  refine ⟨fun s₁ s₂ hc₁ hc₂ hrules haddr hlen hrav hra => ⟨fun fc => ?decode, fun i hi => ?extract⟩,
    fun fc s t ht => ?decodeAgain, fun i s t hi ht => ?extractAgain⟩
  case decode =>
    obtain ⟨t₁, ht₁, -⟩ := exec_rdeDecode_completes (fc := fc) (rulesWf_of_configWf hc₁)
    have hfit : ∀ r ∈ s₁.cfg.rules, wfNfields s₁.cfg r = true → wfNfields s₂.cfg r = true := by
      intro r hr _
      obtain ⟨-, -, -, hfields, -⟩ := (ruleWf_iff _ r).mp (ruleWf_of_mem (rulesWf_of_configWf hc₂) (hrules ▸ hr))
      exact decide_eq_true hfields
    obtain ⟨t₂, ht₂, hsame⟩ := exec_rdeDecode_congr ⟨hlen, hrav, hra⟩ hrules haddr hfit ht₁
    exact ⟨t₁, t₂, ht₁, ht₂, hsame⟩
  case extract => exact exec_extraction_congr hi ⟨hlen, hrav, hra⟩
  case decodeAgain =>
    obtain ⟨⟨hcfg, -, -⟩, ⟨hop, -⟩, -, -, -, hrsp, -, hflags⟩ := execRdeDecode_frame ht
    obtain ⟨u, hu, hid, hfc, hdbaddr, hfolen, hfo, -⟩ := exec_rdeDecode_congr (sameRegisters_of_frame hrsp hflags)
      (by rw [hcfg]) (by rw [hop]) (fun r _ hr => by rwa [hcfg]) ht
    exact ⟨u, hu, hid.symm, hfc.symm, hdbaddr.symm, hfolen.symm, fun j hj => (hfo j hj).symm⟩
  case extractAgain =>
    obtain ⟨-, -, -, -, -, hrsp, -, hflags⟩ := exec_extraction_frame hi ht
    obtain ⟨t', u, ht', hu, hxr, -⟩ := exec_extraction_congr hi (sameRegisters_of_frame hrsp hflags)
    cases ht.symm.trans ht'
    exact ⟨u, hu, hxr.symm⟩

/-! ### Every command completes (R180, R187) -/

/-- An extraction command ends with `OK` or with the outcome of its first failing test. -/
theorem exec_extraction_completes {i : Instr} {kind : Kind} {idx k sc : Nat}
    (hi : extOperands i = some (kind, idx, k, sc)) (s : State) :
    ∃ t, exec i s = .next t ∧ (t.status.err = .ok ∨ t.status.err = firstFailure s k sc) := by
  by_cases hx : Extractable s idx (span kind) sc ∧ k ≤ 7
  · obtain ⟨hx, hk⟩ := hx
    exact ⟨_, exec_of_extractable hi hx hk, .inl rfl⟩
  · exact ⟨_, exec_of_not_extractable hi hx, .inr rfl⟩

theorem firstFailure_mem (s : State) (k sc : Nat) :
    firstFailure s k sc = .decodeBlocked ∨ (2 ≤ sc ∧ firstFailure s k sc = .reservedScale) ∨
      (7 < k ∧ firstFailure s k sc = .bitRange) ∨ firstFailure s k sc = .indexRange := by
  unfold firstFailure
  split_ifs with hrav hsc hk
  · exact .inl rfl
  · exact .inr (.inl ⟨hsc, rfl⟩)
  · exact .inr (.inr (.inl ⟨hk, rfl⟩))
  · exact .inr (.inr (.inr rfl))

/-- A command without a scale select never ends with `ReservedScale`, one without a bit position never with
`BitRange`. -/
theorem extraction_outcome_mem {i : Instr} {kind : Kind} {idx k sc : Nat}
    (hi : extOperands i = some (kind, idx, k, sc)) {e : ErrCode}
    (he : e = .ok ∨ e = .decodeBlocked ∨ (2 ≤ sc ∧ e = .reservedScale) ∨ (7 < k ∧ e = .bitRange) ∨ e = .indexRange) :
    e ∈ outcomes i := by
  cases i <;> cases hi <;> rcases he with rfl | rfl | ⟨hsc, rfl⟩ | ⟨hk, rfl⟩ | rfl <;> simp_all [outcomes]

theorem exec_extraction_outcome {i : Instr} {kind : Kind} {idx k sc : Nat}
    (hi : extOperands i = some (kind, idx, k, sc)) (s : State) :
    ∃ t, exec i s = .next t ∧ t.status.err ∈ outcomes i := by
  obtain ⟨t, ht, herr⟩ := exec_extraction_completes hi s
  refine ⟨t, ht, extraction_outcome_mem hi ?_⟩
  obtain hok | hfail := herr
  · exact .inl hok
  · rw [hfail]
    exact .inr (firstFailure_mem s k sc)

/-- Settles O59, command by command; only `RDE.DECODE` needs the table to be well-formed. -/
theorem everyCommandCompletesWithAListedOutcome : Obligations.EveryCommandCompletesWithAListedOutcome := by
  refine ⟨fun i s hi hc => ?_, rfl⟩
  cases i with
  | crcInit | crcByte | encRd | encWs | sreset => exact ⟨_, rfl, by simp [outcomes]⟩
  | crcBuf => obtain ⟨-, he⟩ | ⟨-, he⟩ := execCrcBuf_cases s <;> exact ⟨_, he, by simp [outcomes]⟩
  | encWm => obtain ⟨-, he⟩ | ⟨-, he⟩ := execEncWm_cases s <;> exact ⟨_, he, by simp [outcomes]⟩
  | decReq =>
    obtain ⟨-, he⟩ | ⟨-, -, he⟩ | ⟨-, -, -, he⟩ | ⟨-, -, -, he⟩ := execDecReq_cases s <;>
      exact ⟨_, he, by simp [outcomes]⟩
  | decRsp =>
    obtain ⟨-, he⟩ | ⟨-, -, he⟩ | ⟨-, -, -, he⟩ | ⟨-, -, -, -, he⟩ | ⟨-, -, -, -, -, he⟩ | ⟨-, -, -, -, -, -, he⟩ |
      ⟨-, -, -, -, -, -, he⟩ := execDecRsp_cases s <;> exact ⟨_, he, by simp [outcomes]⟩
  | extU16 | extS16 | extU32H | extU32L | extHib | extLob | extBit => exact exec_extraction_outcome rfl s
  | rdeDecode fc =>
    obtain ⟨t, ht, herr⟩ := exec_rdeDecode_completes (fc := fc) (rulesWf_of_configWf hc)
    exact ⟨t, ht, by simpa [outcomes] using herr⟩
  | frameReadReq | frameWriteSingleReq | frameWriteMultipleReq | frameNormalRsp | frameExceptionRsp => cases hi

end Sys2Proof.RuleDecode
end

section
/-! PROOFS. The response parse (spec/42_frame_decoder.md R120 to R128): what `DEC.RSP` answers by the first test that
decides, which bytes either parse reads, and the engine blocked after a response that did not succeed (R208). -/

namespace Sys2Proof.ResponseParse

open Sys2Proof.Machine Sys2Proof.Laws Sys2Proof.RequestParse Sys2Proof.Extraction
open Sys2Proof.Codec Sys2Proof.Writers Sys2Proof.RuleDecode

/-! ### What `DEC.RSP` answers (R122, R123, R125, R184) -/

theorem odd_byte_iff (b : Byte) : b.getLsbD 0 = true ↔ b.toNat % 2 = 1 := by
  rw [← Bool.not_eq_false, even_byte_iff]
  omega

theorem responseReadable_iff (s : State) : ResponseReadable s ↔
    s.ib.len.toNat ≤ s.cfg.bufCap ∧ 5 ≤ s.ib.len.toNat ∧ crcRefused s s.ib.len.toNat = false := by
  rw [ResponseReadable, crcRefused_eq_false_iff]

section answers

variable {s : State}

theorem exec_decRsp_of_overlong (hlong : s.cfg.bufCap < s.ib.len.toNat) :
    exec .decRsp s = .next (setErr .bufferRange (clearRsp s)) := if_pos hlong

theorem exec_decRsp_of_short (hfits : s.ib.len.toNat ≤ s.cfg.bufCap) (hshort : s.ib.len.toNat < 5) :
    exec .decRsp s = .next (setErr .malformedResponse (clearRsp s)) := by
  simp [exec, execDecRsp, raise, hfits.not_gt, hshort]

theorem exec_decRsp_of_refused (hfits : s.ib.len.toNat ≤ s.cfg.bufCap) (hlen : 5 ≤ s.ib.len.toNat)
    (hrefused : crcRefused s s.ib.len.toNat = true) :
    exec .decRsp s = .next (setErr .crcMismatch (clearRsp s)) := by
  simp [exec, execDecRsp, raise, hfits.not_gt, hlen.not_gt, hrefused]

variable (hreadable : ResponseReadable s)
include hreadable

theorem exec_decRsp_of_exception (hfc : (ibByte s 1).getLsbD 7 = true) :
    exec .decRsp s = .next (setErr .modbusException (acceptException s)) := by
  obtain ⟨hfits, hlen, haccepted⟩ := (responseReadable_iff s).mp hreadable
  simp [exec, execDecRsp, raise, hfits.not_gt, hlen.not_gt, haccepted, isExceptionCode, hfc]

theorem exec_decRsp_of_missing (hfc : (ibByte s 1).getLsbD 7 = false)
    (hmissing : s.ib.len.toNat < 3 + (ibByte s 2).toNat + 2) :
    exec .decRsp s = .next (setErr .inconsistentByteCount (clearRsp s)) := by
  obtain ⟨hfits, hlen, haccepted⟩ := (responseReadable_iff s).mp hreadable
  simp only [exec, execDecRsp, raise, hfits.not_gt, hlen.not_gt, haccepted, isExceptionCode, hfc, hmissing, if_true,
    if_false, Bool.false_eq_true]

theorem exec_decRsp_of_odd (hfc : (ibByte s 1).getLsbD 7 = false)
    (henough : 3 + (ibByte s 2).toNat + 2 ≤ s.ib.len.toNat) (hodd : (ibByte s 2).toNat % 2 = 1) :
    exec .decRsp s = .next (setErr .malformedResponse (clearRsp s)) := by
  obtain ⟨hfits, hlen, haccepted⟩ := (responseReadable_iff s).mp hreadable
  simp only [exec, execDecRsp, raise, hfits.not_gt, hlen.not_gt, haccepted, isExceptionCode, hfc, henough.not_gt,
    (odd_byte_iff _).mpr hodd, if_true, if_false, Bool.false_eq_true]

theorem exec_decRsp_of_normal (hnormal : NormalResponse s) :
    exec .decRsp s = .next (setErr .ok (acceptResponse s)) := by
  obtain ⟨hfits, hlen, haccepted⟩ := (responseReadable_iff s).mp hreadable
  obtain ⟨hfc, henough, heven⟩ := hnormal
  simp only [exec, execDecRsp, finish, hfits.not_gt, hlen.not_gt, haccepted, isExceptionCode, hfc, henough.not_gt,
    (even_byte_iff _).mpr heven, if_false, Bool.false_eq_true]

end answers

theorem responseFailed_clearRsp (e : ErrCode) (s : State) : ResponseFailed s (setErr e (clearRsp s)) e :=
  ⟨rfl, rfl, rfl, rfl, rfl, fun _ => rfl, rfl, onlyResponse_setErr s e _ _⟩

/-- Settles O22: each clause is the answer at the test that fails first. -/
theorem parseResponseFailsByItsTests : Obligations.ParseResponseFailsByItsTests := by
  refine ⟨by decide, fun s => ⟨fun hlong => ?overlong, fun hfits hshort => ?short,
    fun hfits hlen hstrict hwrong => ?mismatch, fun hread hfc hmissing => ?missing,
    fun hread hfc henough hodd => ?odd⟩⟩
  case overlong => exact ⟨_, exec_decRsp_of_overlong hlong, responseFailed_clearRsp _ s⟩
  case short => exact ⟨_, exec_decRsp_of_short hfits hshort, responseFailed_clearRsp _ s⟩
  case mismatch =>
    have hrefused := (crcRefused_eq_true_iff s _).mpr ⟨hstrict, hwrong⟩
    exact ⟨_, exec_decRsp_of_refused hfits hlen hrefused, responseFailed_clearRsp _ s⟩
  case missing => exact ⟨_, exec_decRsp_of_missing hread hfc hmissing, responseFailed_clearRsp _ s⟩
  case odd => exact ⟨_, exec_decRsp_of_odd hread hfc henough hodd, responseFailed_clearRsp _ s⟩

/-! ### The engine is blocked without a register array (R141, R151) -/

theorem exec_engine_of_blocked {i : Instr} {s : State} (hrav : s.status.rav = false) (hi : isEngine i) :
    ∃ u, exec i s = .next u ∧ u.status.err = .decodeBlocked := by
  obtain hext | ⟨fc, rfl⟩ := hi
  · obtain ⟨⟨kind, idx, k, sc⟩, hops⟩ := Option.isSome_iff_exists.mp hext
    refine ⟨_, exec_of_not_extractable hops (by simp [Extractable, hrav]), ?_⟩
    exact if_pos hrav
  · exact ⟨_, exec_rdeDecode_of_blocked hrav, rfl⟩

/-- Settles O23: bit 7 of byte 1 decides, before the byte count is looked at. -/
theorem exceptionResponseIsSurfaced : Obligations.ExceptionResponseIsSurfaced := by
  refine ⟨fun s hread hfc => ?surfaced, fun s t ht hfc => ?never⟩
  case surfaced =>
    refine ⟨_, exec_decRsp_of_exception hread hfc, rfl, rfl, rfl, rfl, rfl, fun _ => rfl, ?status,
      onlyResponse_setErr s _ _ _, fun i hi => exec_engine_of_blocked rfl hi⟩
    case status =>
      rw [← crcOk_eq_trailingCrcMatches]
      rfl
  case never =>
    obtain ⟨-, he⟩ | ⟨-, -, he⟩ | ⟨-, -, -, he⟩ | ⟨-, -, -, hfc', -⟩ | ⟨-, -, -, -, -, he⟩ | ⟨-, -, -, -, -, -, he⟩ |
      ⟨-, -, -, -, -, -, he⟩ := execDecRsp_cases s
    case inr.inr.inr.inl => rw [isExceptionCode, hfc] at hfc'; cases hfc'
    all_goals cases he.symm.trans ht; exact ⟨nofun, rfl⟩

/-- Settles O24: the registers are those that `acceptResponse` writes from byte 3 on. -/
theorem normalResponseDeliversItsRegisters : Obligations.NormalResponseDeliversItsRegisters := by
  intro s hread hnormal
  have ⟨_, _, heven⟩ := hnormal
  have hbc := (ibByte s 2).isLt
  refine ⟨_, exec_decRsp_of_normal hread hnormal, rfl, rfl, rfl, rfl, ?ralen, fun i hi => ?below, fun i hi => ?beyond,
    ?status, onlyResponse_setErr s _ _ _⟩
  case ralen =>
    have hlen : (BitVec.ofNat 8 ((ibByte s 2).toNat / 2)).toNat = (ibByte s 2).toNat / 2 :=
      Nat.mod_eq_of_lt (by omega)
    rw [setErr_p, acceptResponse_p, hlen]
    omega
  case below =>
    have hreg := (raReg_acceptResponse s i).trans (if_pos hi)
    rwa [ibField, show 3 + 2 * i + 1 = 4 + 2 * i by omega] at hreg
  case beyond => exact (raReg_acceptResponse s i).trans (if_neg (by omega))
  case status =>
    rw [← crcOk_eq_trailingCrcMatches]
    rfl

/-! ### What a parse reads (R127) -/

/-- The same frame but for its last two bytes, which the policy judges alike where there are two. -/
def SameFrame (s₁ s₂ : State) : Prop :=
  s₁.cfg.bufCap = s₂.cfg.bufCap ∧ s₁.ib.len = s₂.ib.len ∧
    (∀ i, i + 2 < s₁.ib.len.toNat → ibByte s₁ i = ibByte s₂ i) ∧
    (2 ≤ s₁.ib.len.toNat → crcRefused s₁ s₁.ib.len.toNat = crcRefused s₂ s₂.ib.len.toNat)

/-- The results of a request parse that do not report the verdict. -/
def SameRequestOutcome (t₁ t₂ : State) : Prop := t₁.q = t₂.q ∧ t₁.status.err = t₂.status.err

/-- The results of a response parse that do not report the verdict. -/
def SameResponseOutcome (t₁ t₂ : State) : Prop :=
  t₁.p.unit = t₂.p.unit ∧ t₁.p.fc = t₂.p.fc ∧ t₁.p.exc = t₂.p.exc ∧ t₁.p.bc = t₂.p.bc ∧ t₁.p.ralen = t₂.p.ralen ∧
    (∀ i, i < t₁.p.ralen.toNat → raReg t₁ i = raReg t₂ i) ∧ t₁.status.isexc = t₂.status.isexc ∧
    t₁.status.rav = t₂.status.rav ∧ t₁.status.err = t₂.status.err

section inputs

variable {s₁ s₂ : State}

theorem exec_decReq_congr (h : SameFrame s₁ s₂) : ∃ t₁ t₂, exec .decReq s₁ = .next t₁ ∧ exec .decReq s₂ = .next t₂ ∧
    SameRequestOutcome t₁ t₂ ∧
    ((2 ≤ s₁.ib.len.toNat → crcOk s₁ s₁.ib.len.toNat = crcOk s₂ s₂.ib.len.toNat) →
      t₁.status.crcok = t₂.status.crcok) := by
  obtain ⟨hcap, hlen, hbytes, hpolicy⟩ := h
  obtain ⟨hlong, he⟩ | ⟨hfits, hshort, he⟩ | ⟨hfits, hmin, hrefused, he⟩ | ⟨hfits, hmin, haccepted, he⟩ :=
    execDecReq_cases s₁
  · exact ⟨_, _, he, exec_decReq_of_overlong (hcap ▸ hlen ▸ hlong), ⟨rfl, rfl⟩, fun _ => rfl⟩
  · exact ⟨_, _, he, exec_decReq_of_short (hcap ▸ hlen ▸ hfits) (hlen ▸ hshort), ⟨rfl, rfl⟩, fun _ => rfl⟩
  · exact ⟨_, _, he, exec_decReq_of_refused (hcap ▸ hlen ▸ hfits) (hlen ▸ hmin) (hpolicy (by omega) ▸ hrefused),
      ⟨rfl, rfl⟩, fun _ => rfl⟩
  · refine ⟨_, _, he, exec_decReq_of_accepted (hcap ▸ hlen ▸ hfits) (hlen ▸ hmin) (hpolicy (by omega) ▸ haccepted),
      ⟨?q, rfl⟩, fun hok => hok (by omega)⟩
    have hbyte (i : Nat) (hi : i < 6) : ibByte s₁ i = ibByte s₂ i := hbytes i (by omega)
    simp only [setErr_q, acceptRequest_q, ibField, hbyte 0 (by decide), hbyte 1 (by decide), hbyte 2 (by decide),
      hbyte 3 (by decide), hbyte 4 (by decide), hbyte 5 (by decide)]

theorem responseReadable_congr (h : SameFrame s₁ s₂) : ResponseReadable s₁ ↔ ResponseReadable s₂ := by
  obtain ⟨hcap, hlen, -, hpolicy⟩ := h
  rw [responseReadable_iff, responseReadable_iff, ← hcap, ← hlen]
  refine and_congr_right fun _ => and_congr_right fun hmin => ?_
  rw [hpolicy (by omega), hlen]

/-- A failing `DEC.RSP` leaves the same results whatever it read. -/
theorem sameResponseOutcome_clearRsp (e : ErrCode) (s₁ s₂ : State) :
    SameResponseOutcome (setErr e (clearRsp s₁)) (setErr e (clearRsp s₂)) :=
  ⟨rfl, rfl, rfl, rfl, rfl, fun _ hi => absurd hi (Nat.not_lt_zero _), rfl, rfl, rfl⟩

theorem sameResponseOutcome_acceptResponse (h : SameFrame s₁ s₂)
    (henough : 3 + (ibByte s₁ 2).toNat + 2 ≤ s₁.ib.len.toNat) :
    SameResponseOutcome (setErr .ok (acceptResponse s₁)) (setErr .ok (acceptResponse s₂)) := by
  obtain ⟨-, -, hbytes, -⟩ := h
  have hbyte0 : ibByte s₁ 0 = ibByte s₂ 0 := hbytes 0 (by omega)
  have hbyte1 : ibByte s₁ 1 = ibByte s₂ 1 := hbytes 1 (by omega)
  have hbyte2 : ibByte s₁ 2 = ibByte s₂ 2 := hbytes 2 (by omega)
  refine ⟨hbyte0, hbyte1, rfl, hbyte2, congrArg (fun b : Byte => BitVec.ofNat 8 (b.toNat / 2)) hbyte2,
    fun i hi => ?_, rfl, rfl, rfl⟩
  have hi' : i < (ibByte s₁ 2).toNat / 2 := lt_of_lt_of_le hi (Nat.mod_le _ _)
  have hregs : ibField s₁ (3 + 2 * i) = ibField s₂ (3 + 2 * i) := by
    rw [ibField, ibField, hbytes (3 + 2 * i) (by omega), hbytes (3 + 2 * i + 1) (by omega)]
  have h₁ := (raReg_acceptResponse s₁ i).trans (if_pos hi')
  have h₂ := (raReg_acceptResponse s₂ i).trans (if_pos (hbyte2 ▸ hi'))
  exact h₁.trans (hregs.trans h₂.symm)

theorem exec_decRsp_congr (h : SameFrame s₁ s₂) : ∃ t₁ t₂, exec .decRsp s₁ = .next t₁ ∧ exec .decRsp s₂ = .next t₂ ∧
    SameResponseOutcome t₁ t₂ ∧
    ((2 ≤ s₁.ib.len.toNat → crcOk s₁ s₁.ib.len.toNat = crcOk s₂ s₂.ib.len.toNat) →
      t₁.status.crcok = t₂.status.crcok) := by
  have ⟨hcap, hlen, hbytes, hpolicy⟩ := h
  by_cases hlong : s₁.cfg.bufCap < s₁.ib.len.toNat
  · exact ⟨_, _, exec_decRsp_of_overlong hlong, exec_decRsp_of_overlong (hcap ▸ hlen ▸ hlong),
      sameResponseOutcome_clearRsp .., fun _ => rfl⟩
  have hfits : s₁.ib.len.toNat ≤ s₁.cfg.bufCap := by omega
  by_cases hshort : s₁.ib.len.toNat < 5
  · exact ⟨_, _, exec_decRsp_of_short hfits hshort, exec_decRsp_of_short (hcap ▸ hlen ▸ hfits) (hlen ▸ hshort),
      sameResponseOutcome_clearRsp .., fun _ => rfl⟩
  have hmin : 5 ≤ s₁.ib.len.toNat := by omega
  cases hcrc : crcRefused s₁ s₁.ib.len.toNat with
  | true =>
    exact ⟨_, _, exec_decRsp_of_refused hfits hmin hcrc,
      exec_decRsp_of_refused (hcap ▸ hlen ▸ hfits) (hlen ▸ hmin) (hpolicy (by omega) ▸ hcrc),
      sameResponseOutcome_clearRsp .., fun _ => rfl⟩
  | false =>
    have hread₁ := (responseReadable_iff s₁).mpr ⟨hfits, hmin, hcrc⟩
    have hread₂ := (responseReadable_congr h).mp hread₁
    have hbyte0 : ibByte s₁ 0 = ibByte s₂ 0 := hbytes 0 (by omega)
    have hbyte1 : ibByte s₁ 1 = ibByte s₂ 1 := hbytes 1 (by omega)
    have hbyte2 : ibByte s₁ 2 = ibByte s₂ 2 := hbytes 2 (by omega)
    cases hfc : (ibByte s₁ 1).getLsbD 7 with
    | true =>
      exact ⟨_, _, exec_decRsp_of_exception hread₁ hfc, exec_decRsp_of_exception hread₂ (hbyte1 ▸ hfc),
        ⟨hbyte0, hbyte1, hbyte2, rfl, rfl, fun _ hi => absurd hi (Nat.not_lt_zero _), rfl, rfl, rfl⟩,
        fun hok => hok (by omega)⟩
    | false =>
      have hfc₂ : (ibByte s₂ 1).getLsbD 7 = false := hbyte1 ▸ hfc
      by_cases hmissing : s₁.ib.len.toNat < 3 + (ibByte s₁ 2).toNat + 2
      · exact ⟨_, _, exec_decRsp_of_missing hread₁ hfc hmissing,
          exec_decRsp_of_missing hread₂ hfc₂ (hlen ▸ hbyte2 ▸ hmissing), sameResponseOutcome_clearRsp .., fun _ => rfl⟩
      have henough : 3 + (ibByte s₁ 2).toNat + 2 ≤ s₁.ib.len.toNat := by omega
      have henough₂ : 3 + (ibByte s₂ 2).toNat + 2 ≤ s₂.ib.len.toNat := hlen ▸ hbyte2 ▸ henough
      obtain heven | hodd := Nat.mod_two_eq_zero_or_one (ibByte s₁ 2).toNat
      · exact ⟨_, _, exec_decRsp_of_normal hread₁ ⟨hfc, henough, heven⟩,
          exec_decRsp_of_normal hread₂ ⟨hfc₂, henough₂, hbyte2 ▸ heven⟩,
          sameResponseOutcome_acceptResponse h henough, fun hok => hok (by omega)⟩
      · exact ⟨_, _, exec_decRsp_of_odd hread₁ hfc henough hodd,
          exec_decRsp_of_odd hread₂ hfc₂ henough₂ (hbyte2 ▸ hodd), sameResponseOutcome_clearRsp .., fun _ => rfl⟩

end inputs

/-- Settles O25: in lenient policy no checksum refuses a frame, so the verdict is the one use of the last two bytes. -/
theorem lenientResultsIgnoreTheTrailingChecksum : Obligations.LenientResultsIgnoreTheTrailingChecksum := by
  intro s₁ s₂ hstrict₁ hstrict₂ hcap hlen hbytes
  have hsame : SameFrame s₁ s₂ := ⟨hcap, hlen, hbytes, fun _ => by simp [crcRefused, hstrict₁, hstrict₂]⟩
  obtain ⟨t₁, t₂, ht₁, ht₂, hreq, -⟩ := exec_decReq_congr hsame
  obtain ⟨u₁, u₂, hu₁, hu₂, hrsp, -⟩ := exec_decRsp_congr hsame
  exact ⟨⟨t₁, t₂, ht₁, ht₂, hreq⟩, u₁, u₂, hu₁, hu₂, hrsp⟩

theorem status_eq {a b : Status} (herr : a.err = b.err) (hisexc : a.isexc = b.isexc) (hcrcok : a.crcok = b.crcok)
    (hrav : a.rav = b.rav) : a = b := by
  obtain ⟨_, _, _, _⟩ := a
  obtain ⟨_, _, _, _⟩ := b
  cases herr; cases hisexc; cases hcrcok; cases hrav
  rfl

/-- Settles O26: with the last two bytes the same too, the verdict agrees as well. -/
theorem parsingReadsOnlyItsInput : Obligations.ParsingReadsOnlyItsInput := by
  intro s₁ s₂ hstrict hcap hlen hbytes
  have hcrc (htwo : 2 ≤ s₁.ib.len.toNat) : crcOk s₁ s₁.ib.len.toNat = crcOk s₂ s₂.ib.len.toNat := by
    have hbody : ibSeq s₁ (s₁.ib.len.toNat - 2) = ibSeq s₂ (s₁.ib.len.toNat - 2) := by
      rw [ibSeq_eq_map, ibSeq_eq_map]
      refine List.map_congr_left fun i hi => hbytes i ?_
      have := List.mem_range.mp hi
      omega
    rw [crcOk, crcOk, hbody, hbytes _ (by omega), hbytes _ (by omega), hlen]
  have hsame : SameFrame s₁ s₂ :=
    ⟨hcap, hlen, fun i hi => hbytes i (by omega), fun htwo => by rw [crcRefused, crcRefused, hcrc htwo, hstrict]⟩
  obtain ⟨t₁, t₂, ht₁, ht₂, ⟨hq, herr⟩, hok⟩ := exec_decReq_congr hsame
  obtain ⟨u₁, u₂, hu₁, hu₂, ⟨hunit, hfc, hexc, hbc, hralen, hra, hisexc, hrav, herr'⟩, hok'⟩ := exec_decRsp_congr hsame
  exact ⟨⟨t₁, t₂, ht₁, ht₂, hq, herr, hok hcrc⟩, u₁, u₂, hu₁, hu₂, hunit, hfc, hexc, hbc, hralen, hra,
    status_eq herr' hisexc (hok' hcrc) hrav⟩

/-! ### The verdicts and the outcome (R126, R127, R35) -/

/-- What a response parse leaves in `RAV` and `ISEXC` says which of the two successes it ended with, if any. -/
theorem exec_decRsp_verdicts {s t : State} (ht : exec .decRsp s = .next t) :
    (t.status.rav = true ↔ t.status.err = .ok) ∧ (t.status.isexc = true ↔ t.status.err = .modbusException) ∧
      (t.status.err = .ok ∨ t.status.err = .modbusException →
        t.status.crcok = crcOk s s.ib.len.toNat ∧ crcRefused s s.ib.len.toNat = false) ∧
      (t.status.err = .crcMismatch → crcRefused s s.ib.len.toNat = true) := by
  obtain ⟨-, he⟩ | ⟨-, -, he⟩ | ⟨-, -, hcrc, he⟩ | ⟨-, -, hcrc, -, he⟩ | ⟨-, -, -, -, -, he⟩ | ⟨-, -, -, -, -, -, he⟩ |
    ⟨-, -, hcrc, -, -, -, he⟩ := execDecRsp_cases s <;> cases he.symm.trans ht <;> simp [*]

theorem exec_decReq_verdicts {s t : State} (ht : exec .decReq s = .next t) :
    (t.status.err = .ok → t.status.crcok = crcOk s s.ib.len.toNat ∧ crcRefused s s.ib.len.toNat = false) ∧
      (t.status.err = .crcMismatch → crcRefused s s.ib.len.toNat = true) := by
  obtain ⟨-, he⟩ | ⟨-, -, he⟩ | ⟨-, -, hcrc, he⟩ | ⟨-, -, hcrc, he⟩ := execDecReq_cases s <;>
    cases he.symm.trans ht <;> simp [*]

theorem crcOk_of_strict {s : State} {n : Nat} (hstrict : s.strict = true) (h : crcRefused s n = false) :
    crcOk s n = true := by
  simpa [crcRefused, hstrict] using h

theorem crcRefused_of_lenient {s : State} (hlenient : s.strict = false) (n : Nat) : crcRefused s n = false := by
  simp [crcRefused, hlenient]

/-- Settles O27: strict policy refuses what does not match, lenient policy refuses nothing. -/
theorem parseVerdictsAgreeWithTheOutcome : Obligations.ParseVerdictsAgreeWithTheOutcome := by
  refine fun s t => ⟨fun ht => ?response, fun ht => ?request⟩
  case response =>
    obtain ⟨hrav, hisexc, hok, hmismatch⟩ := exec_decRsp_verdicts ht
    refine ⟨hrav, hisexc, fun hstrict herr => ?_, fun hlenient herr => ?_⟩
    · obtain ⟨hcrcok, hcrc⟩ := hok herr
      rw [hcrcok, crcOk_of_strict hstrict hcrc]
    · exact absurd (hmismatch herr) (by simp [crcRefused_of_lenient hlenient])
  case request =>
    obtain ⟨hok, hmismatch⟩ := exec_decReq_verdicts ht
    refine ⟨fun hstrict herr => ?_, fun hlenient herr => ?_⟩
    · obtain ⟨hcrcok, hcrc⟩ := hok herr
      rw [hcrcok, crcOk_of_strict hstrict hcrc]
    · exact absurd (hmismatch herr) (by simp [crcRefused_of_lenient hlenient])

/-! ### Blocked until the next response parse (R208) -/

theorem exec_keeps_blocked {i : Instr} {s t : State} (hrav : s.status.rav = false) (hi : i ≠ .decRsp)
    (ht : exec i s = .next t) : t.status.rav = false := by
  by_cases hreset : i = .sreset
  · subst hreset
    cases ht
    rfl
  · obtain ⟨-, -, -, -, -, -, hrsp, -⟩ := eachResultHasItsWriters i s t ht
    obtain ⟨-, -, hsame⟩ := hrsp hreset hi
    rw [hsame, hrav]

theorem perform_keeps_blocked {a : HostAction} {s t : State} (hrav : s.status.rav = false)
    (ha : issuedInstr a ≠ some .decRsp) (ht : perform a s = .next t) : t.status.rav = false := by
  obtain ⟨i, hi, hexec⟩ | ⟨-, rfl⟩ | ⟨-, -, rfl | heq⟩ := perform_next ht
  · exact exec_keeps_blocked hrav (fun hrsp => ha (hrsp ▸ hi)) hexec
  · rfl
  · exact hrav
  · rw [heq]; exact hrav

theorem step_keeps_blocked {s t : State} (hrav : s.status.rav = false)
    (ha : ∀ a ∈ s.pending.take 1, issuedInstr a ≠ some .decRsp) (ht : step s = .next t) : t.status.rav = false := by
  obtain ⟨-, ⟨-, rfl⟩ | ⟨a, rest, hp, hperform⟩⟩ := step_next ht
  · exact hrav
  · exact perform_keeps_blocked (s := takeAction s rest) hrav (ha a (by simp [hp])) hperform

/-- A step leaves the host's stream without the action it took. -/
theorem step_pending {s t : State} (ht : step s = .next t) : t.pending = s.pending.tail := by
  obtain ⟨-, ⟨hp, rfl⟩ | ⟨a, rest, hp, hperform⟩⟩ := step_next ht
  · rw [hp, List.tail_nil]
  · obtain ⟨-, hpending⟩ := perform_keeps hperform
    rw [hpending, hp, takeAction_pending, List.tail_cons]

theorem runSteps_keeps_blocked {n : Nat} {s t : State} (hrav : s.status.rav = false)
    (ha : ∀ a ∈ s.pending.take n, issuedInstr a ≠ some .decRsp) (ht : runSteps n s = .next t) :
    t.status.rav = false := by
  induction n generalizing s with
  | zero => cases ht; exact hrav
  | succ n ih =>
    obtain ⟨u, hstep, hrun⟩ := runSteps_succ_next ht
    refine ih (step_keeps_blocked hrav (fun a h => ha a ?_) hstep) (fun a h => ha a ?_) hrun
    · exact List.mem_of_mem_take (i := 1) (by rwa [List.take_take, Nat.min_eq_left (by omega)])
    · rw [step_pending hstep, ← List.drop_one] at h
      exact List.mem_of_mem_drop (i := 1) (by rwa [List.drop_take])

theorem execAll_keeps_blocked {is : List Instr} {s t : State} (hrav : s.status.rav = false)
    (hi : ∀ i ∈ is, i ≠ .decRsp) (ht : execAll is s = .next t) : t.status.rav = false := by
  induction is generalizing s with
  | nil => cases ht; exact hrav
  | cons i is ih =>
    obtain ⟨u, hexec, hrest⟩ := execAll_cons_next ht
    exact ih (exec_keeps_blocked hrav (hi i (by simp)) hexec) (fun j hj => hi j (by simp [hj])) hrest

theorem blocked_of_failed {s t : State} (ht : exec .decRsp s = .next t) (herr : t.status.err ≠ .ok) :
    t.status.rav = false := by
  obtain ⟨hrav, -⟩ := exec_decRsp_verdicts ht
  exact Bool.eq_false_iff.mpr fun h => herr (hrav.mp h)

/-- Settles O42: `RAV = 0` is kept by all but a response parse, and blocks the engine. -/
theorem engineIsBlockedAfterAFailedResponse : Obligations.EngineIsBlockedAfterAFailedResponse := by
  refine ⟨fun s t hrav ha ht => step_keeps_blocked hrav ha ht, fun n s t u ht herr ha hu => ?steps,
    fun s t u is ht herr hi hu i hengine => ?run, fun s hlenient hfits hmin hnormal hwrong => ?lenient⟩
  case steps =>
    have hrav := runSteps_keeps_blocked (blocked_of_failed ht herr) ha hu
    exact ⟨hrav, fun i hengine => exec_engine_of_blocked hrav hengine⟩
  case run => exact exec_engine_of_blocked (execAll_keeps_blocked (blocked_of_failed ht herr) hi hu) hengine
  case lenient =>
    have hread : ResponseReadable s := ⟨hfits, hmin, by simp [hlenient]⟩
    refine ⟨_, exec_decRsp_of_normal hread hnormal, rfl, ?_, rfl⟩
    rw [← crcOk_eq_trailingCrcMatches] at hwrong
    exact hwrong

end Sys2Proof.ResponseParse
end

section
/-! PROOFS. The laws of the checksum (spec/40_checksum.md section 3): composition, streaming, and the residue of a
sequence followed by its own checksum. -/

namespace Sys2Proof.ChecksumLaws

open Sys2Proof.Machine Sys2Proof.Laws Sys2Proof.Checksum Sys2Proof.Writers Sys2Proof.WireBytes

/-! ### The residue -/

/-- Where the low bits are zero no iteration of R100 adds the polynomial. -/
theorem crcShifts_of_low_zero (n : Nat) {a : Reg16} (h : ∀ i < n, a.getLsbD i = false) : crcShifts n a = a >>> n := by
  induction n generalizing a with
  | zero => rfl
  | succ n ih =>
    have hshift : crcShift a = a >>> 1 := by simp only [crcShift, h 0 (by omega), Bool.false_eq_true, if_false]
    have hlow : ∀ i < n, (a >>> 1).getLsbD i = false := by
      intro i hi
      rw [BitVec.getLsbD_ushiftRight]
      exact h (1 + i) (by omega)
    rw [crcShifts, hshift, ih hlow, ← BitVec.shiftRight_add, Nat.add_comm]

/-- Feeding an accumulator its own low byte shifts the high byte down. -/
theorem crcStep_lo8 (a : Reg16) : crcStep a (lo8 a) = a >>> 8 := by
  have hlow : ∀ i < 8, (a ^^^ (lo8 a).setWidth 16).getLsbD i = false := by
    intro i hi
    have hi' : i < 16 := by omega
    simp [lo8, hi, hi']
  rw [crcStep, crcShifts_of_low_zero 8 hlow]
  ext i hi
  simp [lo8]

theorem lo8_shiftRight (a : Reg16) : lo8 (a >>> 8) = hi8 a := rfl

theorem crc16_append_own (s : List Byte) : crc16 (s ++ crcBytes (crc16 s)) = 0 := by
  rw [crc16_append, crcBytes]
  show crcStep (crcStep (crc16 s) (lo8 (crc16 s))) (hi8 (crc16 s)) = 0
  rw [crcStep_lo8, ← lo8_shiftRight, crcStep_lo8, ← BitVec.shiftRight_add]
  exact BitVec.ushiftRight_eq_zero (le_refl 16)

/-! ### Checksums of the input buffer -/

theorem ibSeq_add_two (s : State) (n : Nat) : ibSeq s (n + 2) = ibSeq s n ++ [ibByte s n, ibByte s (n + 1)] := by
  simp only [ibSeq_eq_map, List.range_succ, List.map_append, List.map_cons, List.map_nil, List.append_assoc,
    List.cons_append, List.nil_append]

theorem crc16_ibSeq_of_matches {s : State} {n : Nat} (hmatch : trailingCrcMatches s (n + 2) = true) :
    crc16 (ibSeq s (n + 2)) = 0 := by
  have hcrc : crc16 (ibSeq s n) = be16 (ibByte s (n + 1)) (ibByte s n) := by
    rw [ibSeq_eq_map]
    exact of_decide_eq_true hmatch
  have hbytes : [ibByte s n, ibByte s (n + 1)] = crcBytes (crc16 (ibSeq s n)) := by rw [hcrc, crcBytes_be16]
  rw [ibSeq_add_two, hbytes, crc16_append_own]

/-- Settles O10: the low byte of the checksum shifts its high byte down, and that byte shifts it out. -/
theorem checksumResidueIsZero : Obligations.ChecksumResidueIsZero := by
  refine ⟨crcStep_lo8, fun s => ⟨crc16_append_own s, crc16_append_own s⟩, fun s htwo hfits hmatch => ?_⟩
  refine ⟨_, exec_crcBuf_of_fits hfits, ?_⟩
  obtain ⟨n, hn⟩ : ∃ n, s.ib.len.toNat = n + 2 := ⟨s.ib.len.toNat - 2, by omega⟩
  rw [withChecksum_crcacc, ← ibSeq_eq_map, hn]
  exact crc16_ibSeq_of_matches (hn ▸ hmatch)

/-! ### Streams (R103, R105) -/

/-- `CRC.BYTE` for each byte of a sequence feeds the sequence. -/
theorem execAll_crcBytes (bytes : List Byte) (s : State) :
    ∃ t, execAll (bytes.map .crcByte) s = .next t ∧ t.crcacc = crcFeed s.crcacc bytes := by
  induction bytes generalizing s with
  | nil => exact ⟨s, rfl, rfl⟩
  | cons b bytes ih => exact ih (withChecksum (crcStep s.crcacc b) .ok s)

/-- Settles O9: the accumulator is a fold over the bytes, and each command a step of it. -/
theorem checksumLaws : Obligations.ChecksumLaws := by
  refine ⟨crc16_nil, crc16_append, fun s₁ s₂ t₁ t₂ hlen hbytes hfits₁ hfits₂ ht₁ ht₂ => ?buffers,
    fun s hempty => ?empty, fun bytes s => execAll_crcBytes bytes (withChecksum 0xFFFF#16 .ok s)⟩
  case buffers =>
    cases (exec_crcBuf_of_fits hfits₁).symm.trans ht₁
    cases (exec_crcBuf_of_fits hfits₂).symm.trans ht₂
    rw [withChecksum_crcacc, withChecksum_crcacc, ← hlen]
    exact congrArg crc16 (List.map_congr_left fun i hi => hbytes i (List.mem_range.mp hi))
  case empty =>
    have hfits : s.ib.len.toNat ≤ s.cfg.bufCap := by rw [hempty]; exact Nat.zero_le _
    refine ⟨_, exec_crcBuf_of_fits hfits, ?_⟩
    rw [withChecksum_crcacc, hempty]
    rfl

end Sys2Proof.ChecksumLaws
end

section
/-! PROOFS. The frame encoder (spec/41_frame_encoder.md R110 to R114): what the three commands store, and that it is the
table's frame with its own checksum. -/

namespace Sys2Proof.Encoder

open Sys2Proof.Machine Sys2Proof.Laws Sys2Proof.Codec Sys2Proof.WireBytes Sys2Proof.Writers Sys2Proof.ChecksumLaws

/-! ### What the commands answer (R111 to R113) -/

/-- The state after a frame with the given body has been stored. -/
def encoded (body : List Byte) (s : State) : State := setErr .ok (storeFrame (withCrc body) s)

/-- The body that `ENC.WM` stores (R113). -/
def writeMultipleOf (s : State) : List Byte :=
  writeMultipleBody s.op.unit s.op.addr (vbSeq s s.vb.len.toNat)

theorem exec_encRd (s : State) :
    exec .encRd s = .next (encoded (requestHeader s.op.unit 0x03#8 s.op.addr s.op.qty) s) := rfl

theorem exec_encWs (s : State) :
    exec .encWs s = .next (encoded (requestHeader s.op.unit 0x06#8 s.op.addr s.op.qty) s) := rfl

theorem exec_encWm_of_fits {s : State} (hfits : s.vb.len.toNat ≤ 127) :
    exec .encWm s = .next (encoded (writeMultipleOf s) s) := if_neg hfits.not_gt

theorem exec_encWm_of_overlong {s : State} (hlong : 127 < s.vb.len.toNat) :
    exec .encWm s = .next (setErr .encodeRange (clearOb s)) := if_pos hlong

@[simp] theorem writeMultipleOf_length (s : State) : (writeMultipleOf s).length = 7 + 2 * s.vb.len.toNat := by
  rw [writeMultipleOf, writeMultipleBody_length, vbSeq_length]

/-- An encoder that ends with `OK` stored the frame of some body of 6 to 261 bytes. -/
theorem exec_encoder_ok {i : Instr} {s t : State} (hi : i = .encRd ∨ i = .encWs ∨ i = .encWm)
    (ht : exec i s = .next t) (hok : t.status.err = .ok) :
    ∃ body, 6 ≤ body.length ∧ body.length ≤ 261 ∧ t = encoded body s := by
  obtain rfl | rfl | rfl := hi
  · cases (exec_encRd s).symm.trans ht
    exact ⟨_, by simp, by simp, rfl⟩
  · cases (exec_encWs s).symm.trans ht
    exact ⟨_, by simp, by simp, rfl⟩
  · by_cases hfits : s.vb.len.toNat ≤ 127
    · cases (exec_encWm_of_fits hfits).symm.trans ht
      exact ⟨_, by rw [writeMultipleOf_length]; omega, by rw [writeMultipleOf_length]; omega, rfl⟩
    · cases (exec_encWm_of_overlong (by omega)).symm.trans ht
      cases hok

/-! ### What a stored frame reads back as -/

section encoded

variable {body : List Byte} (s : State)

theorem obSeq_encoded_take {n : Nat} (hn : n ≤ body.length + 2) : obSeq (encoded body s) n = (withCrc body).take n := by
  apply List.ext_getElem
  · simp [hn]
  · intro j hj _
    have hj' : j < (withCrc body).length := by rw [obSeq_length] at hj; rw [withCrc_length]; omega
    rw [List.getElem_take]
    simp only [obSeq_eq_map, List.getElem_map, List.getElem_range]
    exact (obByte_storeFrame (withCrc body) s j).trans (dif_pos hj')

theorem obSeq_encoded : obSeq (encoded body s) (body.length + 2) = withCrc body := by
  rw [obSeq_encoded_take s (le_refl _), List.take_of_length_le (by simp)]

theorem obSeq_encoded_body : obSeq (encoded body s) body.length = body := by
  rw [obSeq_encoded_take s (by omega), withCrc, List.take_left]

theorem obByte_encoded_beyond {i : Nat} (hi : body.length + 2 ≤ i) : obByte (encoded body s) i = obByte s i :=
  (obByte_storeFrame (withCrc body) s i).trans (dif_neg (by rw [withCrc_length]; omega))

theorem encoded_len (hbody : body.length ≤ 261) : (encoded body s).ob.len.toNat = body.length + 2 := by
  show (withCrc body).length % 2 ^ 16 = body.length + 2
  rw [withCrc_length]
  omega

theorem onlyOutput_encoded : OnlyOutput s (encoded body s) := onlyOutput_setErr s _ _

end encoded

/-- An encoder's frame of a fixed-length request, cell by cell. -/
theorem encoded_request (s : State) (u fc : Byte) (a v : Reg16) :
    ∃ c, c = crc16 [u, fc, hi8 a, lo8 a, hi8 v, lo8 v] ∧ (encoded (requestHeader u fc a v) s).ob.len = 8 ∧
      (List.range 8).map (obByte (encoded (requestHeader u fc a v) s)) =
        [u, fc, hi8 a, lo8 a, hi8 v, lo8 v, lo8 c, hi8 c] ∧
      (∀ i, 8 ≤ i → obByte (encoded (requestHeader u fc a v) s) i = obByte s i) ∧
      (encoded (requestHeader u fc a v) s).status.err = .ok ∧ OnlyOutput s (encoded (requestHeader u fc a v) s) := by
  refine ⟨_, rfl, rfl, ?_, fun i hi => obByte_encoded_beyond s hi, rfl, onlyOutput_encoded s⟩
  rw [← obSeq_eq_map]
  exact obSeq_encoded s

/-- Settles O15: the body is the header with function code 3. -/
theorem encodeReadRequestBuildsItsFrame : Obligations.EncodeReadRequestBuildsItsFrame := by
  refine ⟨by decide, fun s => ?_⟩
  obtain ⟨c, hframe⟩ := encoded_request s s.op.unit 0x03#8 s.op.addr s.op.qty
  exact ⟨_, c, exec_encRd s, hframe⟩

/-- Settles O16: the body is the header with function code 6. -/
theorem encodeWriteSingleBuildsItsFrame : Obligations.EncodeWriteSingleBuildsItsFrame := by
  refine ⟨by decide, fun s => ?_⟩
  obtain ⟨c, hframe⟩ := encoded_request s s.op.unit 0x06#8 s.op.addr s.op.qty
  exact ⟨_, c, exec_encWs s, hframe⟩

theorem writeMultipleBytes_eq (s : State) : writeMultipleBytes s s.vb.len.toNat = writeMultipleOf s := by
  simp [writeMultipleBytes, writeMultipleOf, writeMultipleBody, requestHeader, beBytes_eq_flatMap, vbSeq_eq_map,
    List.flatMap_map]

/-- Settles O17: the header and the values are the body stored; `OP_QTY` is in neither answer. -/
theorem encodeWriteMultipleBuildsItsFrame : Obligations.EncodeWriteMultipleBuildsItsFrame := by
  refine ⟨by decide, fun s => ⟨fun hfits => ?stored, fun hlong => ?overlong, fun v t ht => ?quantity⟩⟩
  case stored =>
    rw [writeMultipleBytes_eq]
    have hlen : (writeMultipleOf s).length + 2 = 9 + 2 * s.vb.len.toNat := by rw [writeMultipleOf_length]; omega
    refine ⟨_, _, exec_encWm_of_fits hfits, rfl, ?len, ?cells, fun i hi => obByte_encoded_beyond s (by omega), rfl,
      onlyOutput_encoded s⟩
    case len => rw [encoded_len s (by omega), hlen]
    case cells => rw [← obSeq_eq_map, ← hlen, obSeq_encoded]; rfl
  case overlong =>
    exact ⟨_, exec_encWm_of_overlong hlong, rfl, fun _ => rfl, rfl, onlyOutput_setErr s _ _⟩
  case quantity =>
    by_cases hfits : s.vb.len.toNat ≤ 127
    · cases (exec_encWm_of_fits hfits).symm.trans ht
      exact exec_encWm_of_fits hfits
    · cases (exec_encWm_of_overlong (by omega)).symm.trans ht
      exact exec_encWm_of_overlong (not_le.mp hfits)

/-! ### The frames carry their checksum and are the table's (R70, R114) -/

theorem obSeq_add_two (s : State) (n : Nat) : obSeq s (n + 2) = obSeq s n ++ [obByte s n, obByte s (n + 1)] := by
  simp only [obSeq_eq_map, List.range_succ, List.map_append, List.map_cons, List.map_nil, List.append_assoc,
    List.cons_append, List.nil_append]

/-- Settles O18: a body and its checksum, whatever the encoder. -/
theorem encodedFramesCarryTheirOwnChecksum : Obligations.EncodedFramesCarryTheirOwnChecksum := by
  intro i s t hi ht hok
  obtain ⟨body, hmin, hmax, rfl⟩ := exec_encoder_ok hi ht hok
  have htail : [obByte (encoded body s) body.length, obByte (encoded body s) (body.length + 1)] =
      crcBytes (crc16 body) := by
    have hseq := obSeq_encoded s (body := body)
    rwa [obSeq_add_two, obSeq_encoded_body, withCrc, List.append_cancel_left_eq] at hseq
  simp only [crcBytes, List.cons.injEq, and_true] at htail
  obtain ⟨hlo, hhi⟩ := htail
  rw [encoded_len s hmax, Nat.add_sub_cancel, show body.length + 2 - 1 = body.length + 1 by omega]
  refine ⟨by omega, by omega, ?carried, ?residue⟩
  case carried => rw [hlo, hhi, be16_hi8_lo8, obSeq_encoded_body]
  case residue => rw [obSeq_encoded, withCrc, crc16_append_own]

/-- Settles O19: the bytes stored are those of the row's code, which decodes to the row. -/
theorem encodersBuildTheTablesFrames : Obligations.EncodersBuildTheTablesFrames := by
  intro s t
  refine ⟨fun ht => ?read, fun ht => ?single, fun ht hok => ?multiple⟩
  case read =>
    cases (exec_encRd s).symm.trans ht
    have hbody : obSeq (encoded (requestHeader s.op.unit 0x03#8 s.op.addr s.op.qty) s) 6 =
        requestHeader s.op.unit 0x03#8 s.op.addr s.op.qty := obSeq_encoded_body s
    rw [encoded_len s (by simp), obSeq_encoded, hbody]
    exact decodeOfEncodeIsTheInstruction (.frameReadReq ..) rfl
  case single =>
    cases (exec_encWs s).symm.trans ht
    have hbody : obSeq (encoded (requestHeader s.op.unit 0x06#8 s.op.addr s.op.qty) s) 6 =
        requestHeader s.op.unit 0x06#8 s.op.addr s.op.qty := obSeq_encoded_body s
    rw [encoded_len s (by simp), obSeq_encoded, hbody]
    exact decodeOfEncodeIsTheInstruction (.frameWriteSingleReq ..) rfl
  case multiple =>
    by_cases hfits : s.vb.len.toNat ≤ 127
    · cases (exec_encWm_of_fits hfits).symm.trans ht
      have hlen := writeMultipleOf_length s
      rw [encoded_len s (by omega), obSeq_encoded, ← hlen, obSeq_encoded_body, ← vbSeq_eq_map]
      exact decodeOfEncodeIsTheInstruction (.frameWriteMultipleReq ..) (by simpa [Instr.wf] using hfits)
    · cases (exec_encWm_of_overlong (not_le.mp hfits)).symm.trans ht
      cases hok

end Sys2Proof.Encoder
end

section
/-! PROOFS. Bytes that arrive in `IB` (spec/30_encoding.md Part A and LDIB of Part B; log 4): the frame rows, and the
parse of what has arrived (spec/42_frame_decoder.md section 2). -/

namespace Sys2Proof.Arrival

open Sys2Proof.Machine Sys2Proof.Laws Sys2Proof.Codec Sys2Proof.WireBytes Sys2Proof.Writers
open Sys2Proof.RequestParse Sys2Proof.ResponseParse

/-! ### Arriving (R171) -/

theorem presentFrame_of_fits {bs : List Byte} {s : State} (hfits : bs.length ≤ s.cfg.bufCap)
    (hcount : bs.length ≤ 65535) : presentFrame bs s = .next (loadInput bs s) := by
  simp [presentFrame, hfits.not_gt, hcount.not_gt]

theorem presentFrame_of_overlong {bs : List Byte} {s : State} (hlong : s.cfg.bufCap < bs.length) :
    presentFrame bs s = .refused (.writeNotAdmitted (.ib s.cfg.bufCap)) := if_pos hlong

theorem loadInput_len {bs : List Byte} (s : State) (hcount : bs.length ≤ 65535) :
    (loadInput bs s).ib.len.toNat = bs.length := Nat.mod_eq_of_lt (by omega)

theorem loadInput_cells (bs : List Byte) (s : State) : (List.range bs.length).map (ibByte (loadInput bs s)) = bs := by
  rw [← ibSeq_eq_map, ibSeq_loadInput]

theorem loadInput_beyond {bs : List Byte} (s : State) {j : Nat} (hj : bs.length ≤ j) :
    ibByte (loadInput bs s) j = ibByte s j := (ibByte_loadInput bs s j).trans (dif_neg hj.not_gt)

theorem exec_of_frame {i : Instr} (hi : i.isCommand = false) (s : State) :
    exec i s = presentFrame (encode i).bytes s := by
  cases i with
  | frameReadReq | frameWriteSingleReq | frameWriteMultipleReq | frameNormalRsp | frameExceptionRsp => rfl
  | _ => cases hi

/-- The 16-bit `IBLEN` counts every well-formed frame (R23). -/
theorem encode_bytes_length_le {i : Instr} (hwf : i.wf = true) : (encode i).bytes.length ≤ 65535 := by
  cases i with
  | frameReadReq | frameWriteSingleReq => simp [encode, Code.bytes]
  | frameWriteMultipleReq u a vs c =>
    have hvs : vs.length ≤ 127 := of_decide_eq_true hwf
    simp only [encode, Code.bytes, List.length_append, writeMultipleBody_length, crcBytes_length]
    omega
  | frameNormalRsp u f rs extra c =>
    simp only [Instr.wf, Bool.and_eq_true, decide_eq_true_eq] at hwf
    simp only [encode, Code.bytes, List.length_append, List.length_cons, List.length_nil, beBytes_length,
      crcBytes_length]
    omega
  | frameExceptionRsp u f x extra c =>
    simp only [Instr.wf, Bool.and_eq_true, decide_eq_true_eq] at hwf
    simp only [encode, Code.bytes, List.length_append, List.length_cons, List.length_nil, crcBytes_length]
    omega
  | _ => exact Nat.zero_le _

/-- Settles O50: a frame row loads its bytes; the layouts without extra bytes fit in the smallest `IB`. -/
theorem framesArriveInTheInputBuffer : Obligations.FramesArriveInTheInputBuffer := by
  refine ⟨fun i s hi hwf hfits => ?arrives, fun i s hi hlong => ?refused, fun c u f x a v k vs hc hvs => ?fit⟩
  case arrives =>
    have hcount := encode_bytes_length_le hwf
    obtain ⟨⟨hop, hvlen, hvb, hstrict⟩, hresults⟩ := sameResults_loadInput s (encode i).bytes
    exact ⟨_, (exec_of_frame hi s).trans (presentFrame_of_fits hfits hcount), loadInput_len s hcount,
      loadInput_cells _ s, fun j hj => loadInput_beyond s hj, hop, hvlen, hvb, hstrict, hresults⟩
  case refused => exact ⟨_, (exec_of_frame hi s).trans (presentFrame_of_overlong hlong)⟩
  case fit =>
    obtain ⟨hcap, -⟩ := (RuleTable.configWf_iff c).mp hc
    simp only [encode, Code.bytes, List.length_append, requestHeader_length, writeMultipleBody_length, beBytes_length,
      crcBytes_length, List.length_cons, List.length_nil]
    omega

/-! ### Parsing what has arrived -/

/-- A body for which `IB` and `IBLEN` have room, its checksum included. -/
def Fits (body : List Byte) (s : State) : Prop := body.length + 2 ≤ s.cfg.bufCap ∧ body.length + 2 ≤ 65535

/-- A frame row that executes has loaded its body and its checksum. -/
theorem exec_frame_loads {i : Instr} {body : List Byte} {c : Reg16} {s t : State} (ht : exec i s = .next t)
    (hi : i.isCommand = false) (hbytes : (encode i).bytes = body ++ crcBytes c) :
    Fits body s ∧ t = loadInput (body ++ crcBytes c) s := by
  rw [exec_of_frame hi, hbytes] at ht
  obtain ⟨hfits, hcount, heq⟩ := presentFrame_next ht
  rw [List.length_append, crcBytes_length] at hfits hcount
  exact ⟨⟨hfits, hcount⟩, heq⟩

section parsing

variable {body : List Byte} {c : Reg16} {s : State}

theorem ibByte_arrived {i : Nat} (hi : i < body.length) :
    ibByte (loadInput (body ++ crcBytes c) s) i = body[i] := by
  have hi' : i < (body ++ crcBytes c).length := by rw [List.length_append]; omega
  rw [ibByte_loadInput, dif_pos hi', List.getElem_append_left hi]

/-- The verdict on an arrived frame compares the checksum it carries with that of the bytes before it (R120). -/
theorem crcOk_arrived : crcOk (loadInput (body ++ crcBytes c) s) (body.length + 2) = decide (c = crc16 body) := by
  have hseq : ibSeq (loadInput (body ++ crcBytes c) s) (body.length + 2) = body ++ crcBytes c := by
    simpa using ibSeq_loadInput (body ++ crcBytes c) s
  rw [ChecksumLaws.ibSeq_add_two] at hseq
  obtain ⟨hbody, htail⟩ := List.append_inj hseq (by simp)
  obtain ⟨hlo, hrest⟩ := List.cons.inj htail
  obtain ⟨hhi, -⟩ := List.cons.inj hrest
  rw [crcOk, Nat.add_sub_cancel, show body.length + 2 - 1 = body.length + 1 by omega, hbody, hlo, hhi, be16_hi8_lo8]
  exact decide_eq_decide.mpr eq_comm

theorem arrived_len (hfits : Fits body s) :
    (loadInput (body ++ crcBytes c) s).ib.len.toNat = body.length + 2 := by
  obtain ⟨-, hcount⟩ := hfits
  rw [loadInput_len s (by simpa using hcount), List.length_append, crcBytes_length]

theorem crcRefused_arrived (hpolicy : s.strict = true → c = crc16 body) :
    crcRefused (loadInput (body ++ crcBytes c) s) (body.length + 2) = false := by
  rw [crcRefused, crcOk_arrived, loadInput_strict]
  cases hstrict : s.strict with
  | false => rfl
  | true => simp [hpolicy hstrict]

/-- A request's first six bytes are what `DEC.REQ` reports (R76, R121). -/
theorem exec_decReq_arrived {u fc : Byte} {a v : Reg16} {tail : List Byte} (hfits : Fits body s)
    (hpolicy : s.strict = true → c = crc16 body) (hbody : body = requestHeader u fc a v ++ tail) :
    ∃ t, exec .decReq (loadInput (body ++ crcBytes c) s) = .next t ∧ t.status.err = .ok ∧
      t.q = { unit := u, fc := fc, addr := a, qty := v } ∧ (t.status.crcok = true ↔ c = crc16 body) := by
  have ⟨hcap, _⟩ := hfits
  have hlen := arrived_len (c := c) hfits
  have hmin : 6 ≤ body.length := by rw [hbody, List.length_append, requestHeader_length]; omega
  have haccepted := exec_decReq_of_accepted (s := loadInput (body ++ crcBytes c) s) (by rw [hlen]; exact hcap)
    (by rw [hlen]; omega) (by rw [hlen]; exact crcRefused_arrived hpolicy)
  refine ⟨_, haccepted, rfl, ?fields, ?verdict⟩
  case fields =>
    have hbyte (i : Nat) (hi : i < 6) : ibByte (loadInput (body ++ crcBytes c) s) i = (requestHeader u fc a v)[i] := by
      rw [ibByte_arrived (by omega)]
      simp only [hbody]
      exact List.getElem_append_left hi
    rw [setErr_q, acceptRequest_q, ibField, ibField, hbyte 0 (by decide), hbyte 1 (by decide), hbyte 2 (by decide),
      hbyte (2 + 1) (by decide), hbyte 4 (by decide), hbyte (4 + 1) (by decide)]
    simp [requestHeader]
  case verdict => rw [setErr_status, acceptRequest_status, hlen, crcOk_arrived, decide_eq_true_eq]

/-- An arrived response of at least three bytes before its checksum is readable. -/
theorem responseReadable_arrived (hfits : Fits body s) (hpolicy : s.strict = true → c = crc16 body)
    (hmin : 3 ≤ body.length) : ResponseReadable (loadInput (body ++ crcBytes c) s) := by
  have ⟨hcap, _⟩ := hfits
  rw [responseReadable_iff, arrived_len hfits]
  exact ⟨hcap, by omega, crcRefused_arrived hpolicy⟩

end parsing

/-- Settles O52: the three request layouts begin with the six bytes that `DEC.REQ` reads. -/
theorem arrivedRequestsAreParsed : Obligations.ArrivedRequestsAreParsed := by
  intro s t u a v c vs hlenient
  have hpolicy (body : List Byte) : s.strict = true → c = crc16 body := by simp [hlenient]
  have hheader (fc : Byte) : requestHeader u fc a v = requestHeader u fc a v ++ [] := (List.append_nil _).symm
  refine ⟨fun ht => ?read, fun ht => ?single, fun _ ht => ?multiple⟩
  case read =>
    obtain ⟨hfits, rfl⟩ := exec_frame_loads (body := requestHeader u 0x03#8 a v) (c := c) ht rfl rfl
    exact exec_decReq_arrived hfits (hpolicy _) (hheader _)
  case single =>
    obtain ⟨hfits, rfl⟩ := exec_frame_loads (body := requestHeader u 0x06#8 a v) (c := c) ht rfl rfl
    exact exec_decReq_arrived hfits (hpolicy _) (hheader _)
  case multiple =>
    obtain ⟨hfits, rfl⟩ := exec_frame_loads (body := writeMultipleBody u a vs) (c := c) ht rfl rfl
    exact exec_decReq_arrived hfits (hpolicy _) rfl

/-! ### The registers of an arrived response -/

theorem getElem_beBytes {vs : List Reg16} {i : Nat} {v : Reg16} (hv : vs[i]? = some v) :
    (beBytes vs)[2 * i]? = some (hi8 v) ∧ (beBytes vs)[2 * i + 1]? = some (lo8 v) := by
  induction vs generalizing i with
  | nil => simp at hv
  | cons w vs ih =>
    cases i with
    | zero => simp at hv; simp [beBytes, hv]
    | succ i =>
      have hrest := ih (i := i) (by simpa using hv)
      simpa [beBytes, Nat.mul_succ] using hrest

section response

variable {u f y : Byte} {tail : List Byte} {c : Reg16} {s : State}

theorem ibByte_arrived_header :
    ibByte (loadInput (u :: f :: y :: tail ++ crcBytes c) s) 0 = u ∧
      ibByte (loadInput (u :: f :: y :: tail ++ crcBytes c) s) 1 = f ∧
      ibByte (loadInput (u :: f :: y :: tail ++ crcBytes c) s) 2 = y :=
  ⟨ibByte_arrived (by simp), ibByte_arrived (by simp), ibByte_arrived (by simp)⟩

/-- A register stands in the two bytes of its place after the first three bytes (R74). -/
theorem ibField_arrived {rs : List Reg16} {extra : List Byte} {r : Reg16} {i : Nat} (hr : rs[i]? = some r) :
    ibField (loadInput (u :: f :: y :: (beBytes rs ++ extra) ++ crcBytes c) s) (3 + 2 * i) = r := by
  obtain ⟨hhi, hlo⟩ := getElem_beBytes hr
  have hbyte (j : Nat) (b : Byte) (hj : (beBytes rs)[j]? = some b) :
      ibByte (loadInput (u :: f :: y :: (beBytes rs ++ extra) ++ crcBytes c) s) (3 + j) = b := by
    obtain ⟨hj', rfl⟩ := List.getElem?_eq_some_iff.mp hj
    rw [ibByte_arrived (by simp only [List.length_append, List.length_cons]; omega)]
    simp only [Nat.add_comm 3 j, List.getElem_cons_succ]
    exact List.getElem_append_left hj'
  rw [ibField, Nat.add_assoc, hbyte _ _ hhi, hbyte _ _ hlo, be16_hi8_lo8]

/-- A well-formed normal response is one for `DEC.RSP` once it has arrived. -/
theorem normalResponse_arrived {rs : List Reg16} {extra : List Byte} (hfc : isExceptionCode f = false)
    (hy : y.toNat = 2 * rs.length) (hfits : Fits (u :: f :: y :: (beBytes rs ++ extra)) s) :
    NormalResponse (loadInput (u :: f :: y :: (beBytes rs ++ extra) ++ crcBytes c) s) := by
  obtain ⟨-, hbyte1, hbyte2⟩ := ibByte_arrived_header (u := u) (f := f) (y := y) (tail := beBytes rs ++ extra) (c := c)
    (s := s)
  rw [NormalResponse, hbyte1, hbyte2, arrived_len hfits, hy]
  simp only [List.length_cons, List.length_append, beBytes_length]
  exact ⟨hfc, by omega, by omega⟩

end response

/-- Settles O53: after the three bytes before them the registers stand two bytes each, and extra bytes after them are
not read. -/
theorem arrivedResponsesAreParsed : Obligations.ArrivedResponsesAreParsed := by
  intro s t u f x c rs extra hlenient
  have hpolicy (body : List Byte) : s.strict = true → c = crc16 body := by simp [hlenient]
  refine ⟨fun hwf ht => ?normal, fun hwf ht => ?exception⟩
  case normal =>
    simp only [Instr.wf, Bool.and_eq_true, Bool.not_eq_true', decide_eq_true_eq] at hwf
    obtain ⟨⟨hfc, hrs⟩, -⟩ := hwf
    obtain ⟨hfits, rfl⟩ := exec_frame_loads
      (body := u :: f :: BitVec.ofNat 8 (2 * rs.length) :: (beBytes rs ++ extra)) (c := c) ht rfl rfl
    have hcount : (BitVec.ofNat 8 (2 * rs.length)).toNat = 2 * rs.length := Nat.mod_eq_of_lt (by omega)
    obtain ⟨hbyte0, hbyte1, hbyte2⟩ := ibByte_arrived_header (u := u) (f := f)
      (y := BitVec.ofNat 8 (2 * rs.length)) (tail := beBytes rs ++ extra) (c := c) (s := s)
    obtain ⟨t', ht', hunit, hfc', -, hbc, hralen, hra, -, hstatus, -⟩ := normalResponseDeliversItsRegisters _
      (responseReadable_arrived hfits (hpolicy _) (by simp)) (normalResponse_arrived hfc hcount hfits)
    rw [hbyte2, hcount] at hralen hra
    refine ⟨t', ht', by rw [hstatus], by rw [hstatus], hunit.trans hbyte0, hfc'.trans hbyte1,
      by rw [hbc, hbyte2, hcount], by omega, fun i r hr => ?register, ?verdict⟩
    case register =>
      obtain ⟨hi, -⟩ := List.getElem?_eq_some_iff.mp hr
      have hfield := ibField_arrived (u := u) (f := f) (y := BitVec.ofNat 8 (2 * rs.length)) (extra := extra) (c := c)
        (s := s) hr
      rw [ibField, show 3 + 2 * i + 1 = 4 + 2 * i by omega] at hfield
      exact (hra i (by omega)).trans hfield
    case verdict =>
      rw [hstatus, ← crcOk_eq_trailingCrcMatches, arrived_len hfits, crcOk_arrived, decide_eq_true_eq]
      rfl
  case exception =>
    simp only [Instr.wf, Bool.and_eq_true] at hwf
    obtain ⟨hfc, -⟩ := hwf
    obtain ⟨hfits, rfl⟩ := exec_frame_loads (body := u :: f :: x :: extra) (c := c) ht rfl rfl
    obtain ⟨hbyte0, hbyte1, hbyte2⟩ :=
      ibByte_arrived_header (u := u) (f := f) (y := x) (tail := extra) (c := c) (s := s)
    have hread := responseReadable_arrived hfits (hpolicy _) (by simp)
    refine ⟨_, exec_decRsp_of_exception hread (hbyte1.symm ▸ hfc), rfl, rfl, hbyte0, hbyte1, hbyte2, ?_⟩
    rw [setErr_status, acceptException_status, arrived_len hfits, crcOk_arrived, decide_eq_true_eq]
    rfl

end Sys2Proof.Arrival
end

section
/-! PROOFS. The host's stream (spec/44_system.md R170 to R175, spec/30_encoding.md Part B): a step is the next action
performed, the pseudo-instructions run action by action, and encoded requests parse back (spec/41_frame_encoder.md
R114). -/

namespace Sys2Proof.HostStream

open Sys2Proof.Machine Sys2Proof.Laws Sys2Proof.Writers Sys2Proof.Arrival Sys2Proof.Encoder

/-! ### A step by the kind of the next action (R170, R173, R175) -/

theorem perform_actionOfCode (c : Code) (s : State) : perform (actionOfCode c) s = runCode c s := by
  cases c <;> rfl

theorem runCode_of_instr {c : Code} {i : Instr} (h : decode c = .instr i) (s : State) : runCode c s = exec i s := by
  simp only [runCode, h]

theorem runCode_of_illegal {w : CmdWord} {r : Reject} (h : decodeCommand w = .rejected r) (s : State) :
    runCode (.cmd w) s = .next (setErr .illegalCommand s) := by
  have hd : decode (.cmd w) = .rejected r := h
  simp only [runCode, hd]
  rfl

theorem step_of_code {s : State} {c : Code} {i : Instr} {rest : List HostAction} (hc : configWf s.cfg = true)
    (hp : s.pending = actionOfCode c :: rest) (hd : decode c = .instr i) : step s = exec i (takeAction s rest) := by
  rw [step_eq_perform hc hp, perform_actionOfCode, runCode_of_instr hd]

theorem hostWrite_cmd {v : Nat} (hv : v < 2 ^ 32) (s : State) :
    hostWrite .cmd v s = runCode (.cmd (BitVec.ofNat 32 v)) s := if_pos hv

theorem step_of_idle {s : State} (hc : configWf s.cfg = true) (hp : s.pending = []) : step s = .next s := by
  rw [step, stepOnce, hp]
  exact if_pos hc

/-- Bytes that no frame row decodes arrive all the same (log 4). -/
theorem step_of_malformed {s : State} {bs : List Byte} {r : Reject} {rest : List HostAction}
    (hc : configWf s.cfg = true)
    (h : (s.pending = .request bs :: rest ∧ decodeRequest bs = .rejected r) ∨
      (s.pending = .response bs :: rest ∧ decodeResponse bs = .rejected r)) :
    step s = presentFrame bs (takeAction s rest) := by
  obtain ⟨hp, hd⟩ | ⟨hp, hd⟩ := h
  · have hcode : decode (.req bs) = .rejected r := hd
    rw [step_eq_perform hc hp]
    simp only [perform, runCode, hcode]
  · have hcode : decode (.rsp bs) = .rejected r := hd
    rw [step_eq_perform hc hp]
    simp only [perform, runCode, hcode]

/-- Settles O6: the next action decides the step. -/
theorem stepRunsTheDecodedInstruction : Obligations.StepRunsTheDecodedInstruction := by
  intro s hc
  refine ⟨fun c i rest hp hd => step_of_code hc hp hd, fun v i rest hp hv hd => ?cmd,
    fun tg v rest hp => step_eq_perform hc hp, fun tg rest hp => step_eq_perform hc hp,
    fun rest hp => step_eq_perform hc hp, step_of_idle hc, fun bs r rest h => ⟨fun hfits => ?arrives,
      fun hlong => ?refused⟩⟩
  case cmd =>
    have hcode : decode (.cmd (BitVec.ofNat 32 v)) = .instr i := hd
    rw [step_eq_perform hc hp, perform, hostWrite_cmd hv, runCode_of_instr hcode]
  case arrives =>
    obtain ⟨-, hcap, -⟩ := (RuleTable.configWf_iff _).mp hc
    have hcount : bs.length ≤ 65535 := hfits.trans hcap
    rw [step_of_malformed hc h]
    exact ⟨_, presentFrame_of_fits hfits hcount, loadInput_len _ hcount, loadInput_cells _ _,
      fun j hj => loadInput_beyond _ hj, rfl⟩
  case refused => rw [step_of_malformed hc h]; exact presentFrame_of_overlong hlong

/-- Settles O7: no row holds of the word, so the step only reports it, and the next code runs as from any state. -/
theorem illegalCommandWritesOnlyTheError : Obligations.IllegalCommandWritesOnlyTheError := by
  refine ⟨rfl, fun s w rest hc hp hw => ?_⟩
  obtain ⟨r, hr⟩ := (Codec.decodeCommand_rejected_iff w).mpr fun row hrow => decide_eq_false (hw row hrow)
  refine ⟨_, ?illegal, rfl, fun c i rest' hrest hd => step_of_code hc hrest hd⟩
  case illegal => rw [step_eq_perform hc hp, perform, runCode_of_illegal hr]; rfl

/-- Settles O57: the block's step answers no configuration, and performing an action needs none of the stream. -/
theorem configurationNeverChanges : Obligations.ConfigurationNeverChanges := by
  refine ⟨fun s t ht => ?step, fun a s t ht => perform_keeps ht, fun s a rest hc hp => ?block⟩
  case step =>
    obtain ⟨-, ⟨-, rfl⟩ | ⟨a, rest, -, hperform⟩⟩ := step_next ht
    · rfl
    · obtain ⟨hcfg, -⟩ := perform_keeps hperform
      exact hcfg
  case block =>
    have hstep := step_eq_perform hc hp
    refine ⟨hstep, fun t => ?_⟩
    rw [← hstep]
    simp only [step, stepOnce, hp]
    cases hb : blockStep s.cfg s.toBlockState a with
    | next bv =>
      obtain ⟨b, v⟩ := bv
      constructor
      · intro h; cases h; exact ⟨b, v, rfl, rfl⟩
      · rintro ⟨_, _, h, rfl⟩; cases h; rfl
    | fault f => simp
    | refused r => simp

/-! ### Runs of host actions -/

theorem runSteps_add {m n : Nat} {s t : State} (h : runSteps m s = .next t) : runSteps (m + n) s = runSteps n t := by
  induction m generalizing s with
  | zero => cases h; rw [Nat.zero_add]
  | succ m ih =>
    obtain ⟨u, hstep, hrun⟩ := runSteps_succ_next h
    rw [Nat.add_right_comm, runSteps, hstep]
    exact ih hrun

theorem step_withActions {a : HostAction} {rest : List HostAction} {s : State} (hc : configWf s.cfg = true) :
    step (withActions (a :: rest) s) = perform a (withActions rest s) :=
  step_eq_perform (s := withActions (a :: rest) s) hc rfl

theorem runSteps_one {s t : State} (h : step s = .next t) : runSteps 1 s = .next t := by
  rw [runSteps, h]
  rfl

/-- A read delivers its value, which the next action clears. -/
theorem runSteps_read {tg : Target} {v : HostValue} {a : HostAction} {rest : List HostAction} {s t : State}
    (hc : configWf s.cfg = true) (hv : readTarget (withActions (a :: rest) s) tg = some v)
    (ht : perform a (withActions rest s) = .next t) :
    runSteps 2 (withActions (.read tg :: a :: rest) s) = .next t := by
  have hread : step (withActions (.read tg :: a :: rest) s) =
      .next { withActions (a :: rest) s with delivered := some v } := by
    rw [step_withActions hc, perform, hostRead, hv]
  refine (runSteps_add (m := 1) (n := 1) (runSteps_one hread)).trans (runSteps_one ?_)
  rw [← ht]
  exact step_eq_perform (s := { withActions (a :: rest) s with delivered := some v }) hc rfl

/-- `s` with a sequence written to `IB` from cell `i` on, `IBLEN` as it was. -/
def withIbCells (i : Nat) (bs : List Byte) (s : State) : State :=
  { s with ib := { s.ib with cells := Memory.writeSeq 0 s.ib.cells i bs } }

/-- `s` with a sequence written to `VB` from cell `i` on, `VLEN` as it was. -/
def withVbCells (i : Nat) (vs : List Reg16) (s : State) : State :=
  { s with vb := { s.vb with cells := Memory.writeSeq 0 s.vb.cells i vs } }

theorem perform_write_ib {i : Nat} (b : Byte) (rest : List HostAction) {s : State} (hi : i < s.cfg.bufCap) :
    perform (.write (.ib i) b.toNat) (withActions rest s) = .next (withActions rest (withIbCells i [b] s)) := by
  have hcap : i < (withActions rest s).cfg.bufCap := hi
  simp only [perform, hostWrite, admitWidth, hcap, if_true, b.isLt, BitVec.ofNat_toNat, BitVec.setWidth_eq]
  rfl

theorem perform_write_vb {i : Nat} (v : Reg16) (rest : List HostAction) {s : State} (hi : i < 127) :
    perform (.write (.vb i) v.toNat) (withActions rest s) = .next (withActions rest (withVbCells i [v] s)) := by
  have hcap : i < vbCap := hi
  simp only [perform, hostWrite, admitWidth, hcap, if_true, v.isLt, BitVec.ofNat_toNat, BitVec.setWidth_eq]
  rfl

theorem run_writeBytes {bs : List Byte} {i : Nat} (rest : List HostAction) {s : State} (hc : configWf s.cfg = true)
    (hfits : i + bs.length ≤ s.cfg.bufCap) :
    runSteps bs.length (withActions (writeBytes i bs ++ rest) s) = .next (withActions rest (withIbCells i bs s)) := by
  induction bs generalizing i s with
  | nil => rfl
  | cons b bs ih =>
    rw [List.length_cons] at hfits ⊢
    rw [Nat.add_comm bs.length 1]
    have hfirst := (step_withActions hc).trans (perform_write_ib (i := i) (s := s) b (writeBytes (i + 1) bs ++ rest)
      (by omega))
    refine (runSteps_add (runSteps_one hfirst)).trans ?_
    exact ih (s := withIbCells i [b] s) hc (by show i + 1 + bs.length ≤ s.cfg.bufCap; omega)

theorem run_writeValues {vs : List Reg16} {i : Nat} (rest : List HostAction) {s : State} (hc : configWf s.cfg = true)
    (hfits : i + vs.length ≤ 127) :
    runSteps vs.length (withActions (writeValues i vs ++ rest) s) = .next (withActions rest (withVbCells i vs s)) := by
  induction vs generalizing i s with
  | nil => rfl
  | cons v vs ih =>
    rw [List.length_cons] at hfits ⊢
    rw [Nat.add_comm vs.length 1]
    have hfirst := (step_withActions hc).trans (perform_write_vb (i := i) (s := s) v (writeValues (i + 1) vs ++ rest)
      (by omega))
    refine (runSteps_add (runSteps_one hfirst)).trans ?_
    exact ih (s := withVbCells i [v] s) hc (by omega)

/-- Each copied cell is one read and one write; the reads find what `OB` held at the start. -/
theorem run_copyCells {n i : Nat} (rest : List HostAction) {s₀ s : State} (hc : configWf s.cfg = true)
    (hob : s.ob = s₀.ob) (hlen : i + n ≤ s.ob.len.toNat) (hfits : i + n ≤ s.cfg.bufCap) :
    runSteps (2 * n) (withActions (copyCells s₀ i n ++ rest) s) =
      .next (withActions rest (withIbCells i (Memory.readSeq 0 s₀.ob.cells i n) s)) := by
  induction n generalizing i s with
  | zero => rfl
  | succ n ih =>
    have hread : readTarget (withActions (.write (.ib i) (obByte s₀ i).toNat :: (copyCells s₀ (i + 1) n ++ rest)) s)
        (.ob i) = some (.num (obByte s i).toNat) := if_pos (by show i < s.ob.len.toNat; omega)
    have hfirst := runSteps_read hc hread (perform_write_ib (obByte s₀ i) _ (by omega))
    rw [Nat.mul_succ, Nat.add_comm]
    refine (runSteps_add hfirst).trans ?_
    exact ih (s := withIbCells i [obByte s₀ i] s) hc hob (by show i + 1 + n ≤ s.ob.len.toNat; omega)
      (by show i + 1 + n ≤ s.cfg.bufCap; omega)

theorem perform_write_iblen {n : Nat} (rest : List HostAction) (s : State) (hn : n ≤ 65535) :
    perform (.write .iblen n) (withActions rest s) =
      .next (withActions rest { s with ib := { s.ib with len := BitVec.ofNat 16 n } }) := by
  exact if_pos (by omega)

theorem perform_write_vlen {n : Nat} (rest : List HostAction) (s : State) (hn : n ≤ 255) :
    perform (.write .vlen n) (withActions rest s) =
      .next (withActions rest { s with vb := { s.vb with len := BitVec.ofNat 8 n } }) := by
  exact if_pos (by omega)

/-! ### The pseudo-instructions (R85) -/

theorem length_writeBytes (i : Nat) (bs : List Byte) : (writeBytes i bs).length = bs.length := by
  induction bs generalizing i with
  | nil => rfl
  | cons b bs ih => rw [writeBytes, List.length_cons, List.length_cons, ih]

theorem length_writeValues (i : Nat) (vs : List Reg16) : (writeValues i vs).length = vs.length := by
  induction vs generalizing i with
  | nil => rfl
  | cons v vs ih => rw [writeValues, List.length_cons, List.length_cons, ih]

theorem length_copyCells (s : State) (i n : Nat) : (copyCells s i n).length = 2 * n := by
  induction n generalizing i with
  | zero => rfl
  | succ n ih => rw [copyCells, List.length_cons, List.length_cons, ih, Nat.mul_succ]

theorem runHost_ldib {bs : List Byte} {s : State} (hc : configWf s.cfg = true) (hfits : bs.length ≤ s.cfg.bufCap) :
    runHost s (expand s (.ldib bs)) = .next (loadInput bs (withActions [] s)) := by
  obtain ⟨-, hcap, -⟩ := (RuleTable.configWf_iff _).mp hc
  have hwrites := run_writeBytes (bs := bs) (i := 0) [.write .iblen bs.length] hc (by omega)
  have hlen := (step_withActions (s := withIbCells 0 bs s) hc).trans (perform_write_iblen [] _ (hfits.trans hcap))
  rw [runHost, expand, List.length_append, length_writeBytes, runSteps_add hwrites]
  exact runSteps_one hlen

theorem runHost_ldvb {vs : List Reg16} {s : State} (hc : configWf s.cfg = true) (hvs : vs.length ≤ 127) :
    runHost s (expand s (.ldvb vs)) = .next (withActions []
      { s with vb := { cells := Memory.writeSeq 0 s.vb.cells 0 vs, len := BitVec.ofNat 8 vs.length } }) := by
  have hwrites := run_writeValues (vs := vs) (i := 0) [.write .vlen vs.length] hc (by omega)
  have hlen := (step_withActions (s := withVbCells 0 vs s) hc).trans
    (perform_write_vlen (n := vs.length) [] _ (by omega))
  rw [runHost, expand, List.length_append, length_writeValues, runSteps_add hwrites]
  exact runSteps_one hlen

/-- `OB2IB` with further actions after it. -/
theorem runSteps_ob2ib (rest : List HostAction) {s : State} (hc : configWf s.cfg = true) (hlen : s.ob.len.toNat ≤ 263) :
    runSteps (expand s .ob2ib).length (withActions (expand s .ob2ib ++ rest) s) =
      .next (withActions rest (loadInput (obSeq s s.ob.len.toNat) s)) := by
  obtain ⟨hcap, -⟩ := (RuleTable.configWf_iff _).mp hc
  have hcopies := run_copyCells (n := s.ob.len.toNat) (i := 0) (.read .oblen :: .write .iblen s.ob.len.toNat :: rest) hc
    (rfl : s.ob = s.ob) (by omega) (by omega)
  have hcount := runSteps_read (s := withIbCells 0 (obSeq s s.ob.len.toNat) s) hc
    (tg := .oblen) rfl (perform_write_iblen (n := s.ob.len.toNat) rest _ (by omega))
  rw [expand, List.length_append, length_copyCells, List.append_assoc]
  refine (runSteps_add hcopies).trans (hcount.trans ?_)
  rw [loadInput, obSeq_length]
  rfl

/-- Settles O54: the writes of each expansion, run one by one, and the length written last. -/
theorem pseudoInstructionsAreTheirExpansions : Obligations.PseudoInstructionsAreTheirExpansions := by
  intro s hc
  refine ⟨fun bytes hfits => runHost_ldib hc hfits, fun i hi hfits => ?frame, fun vs hvs => ?ldvb, fun hlen => ?ob2ib⟩
  case frame =>
    obtain ⟨-, hcap, -⟩ := (RuleTable.configWf_iff _).mp hc
    rw [runHost_ldib hc hfits, exec_of_frame hi]
    exact (presentFrame_of_fits (s := withActions [] s) hfits (hfits.trans hcap)).symm
  case ldvb =>
    refine ⟨_, runHost_ldvb hc hvs, Nat.mod_eq_of_lt (by omega), readSeq_writeSeq _ vs, fun i hi => ?_, rfl⟩
    exact (read_writeSeq s.vb.cells 0 vs i).trans (dif_neg (by omega))
  case ob2ib =>
    have hrun := runSteps_ob2ib [] hc hlen
    rw [List.append_nil] at hrun
    exact hrun

/-! ### Encoded requests parse back (R114) -/

/-- `DEC.REQ` on a copied request reports its header, and the checksum that the encoder stored matches. -/
theorem runHost_parse_encoded {s : State} {u fc : Byte} {a v : Reg16} {tail : List Byte} (hc : configWf s.cfg = true)
    (htail : (requestHeader u fc a v ++ tail).length ≤ 261) :
    ∃ t, runHost (encoded (requestHeader u fc a v ++ tail) s)
        (expand (encoded (requestHeader u fc a v ++ tail) s) .ob2ib ++ [.issue 0x00000020#32]) = .next t ∧
      t.q = { unit := u, fc := fc, addr := a, qty := v } ∧ t.status.err = .ok ∧ t.status.crcok = true := by
  obtain ⟨body, hbody⟩ : ∃ body, body = requestHeader u fc a v ++ tail := ⟨_, rfl⟩
  rw [← hbody] at htail ⊢
  obtain ⟨hcap, -⟩ := (RuleTable.configWf_iff _).mp hc
  have hlen : (encoded body s).ob.len.toNat = body.length + 2 := encoded_len s htail
  have hcopied := runSteps_ob2ib (s := encoded body s) [.issue 0x00000020#32] hc (by omega)
  rw [hlen, obSeq_encoded, withCrc] at hcopied
  have hfits : Fits body (withActions [] (encoded body s)) := ⟨by show body.length + 2 ≤ s.cfg.bufCap; omega, by omega⟩
  obtain ⟨t, ht, hok, hq, hcrc⟩ := exec_decReq_arrived hfits (fun _ => rfl) hbody
  have hissue : perform (.issue 0x00000020#32) (withActions [] (loadInput (body ++ crcBytes (crc16 body))
      (encoded body s))) = .next t :=
    (runCode_of_instr (c := .cmd 0x00000020#32) (i := .decReq) (by decide) _).trans ht
  refine ⟨t, ?_, hq, hok, hcrc.mpr rfl⟩
  rw [runHost, List.length_append, runSteps_add hcopied]
  exact runSteps_one ((step_withActions (s := loadInput _ (encoded body s)) hc).trans hissue)

/-- Settles O20: each encoder's body begins with the header of its request. -/
theorem encodedRequestsParseBack : Obligations.EncodedRequestsParseBack := by
  refine fun s t hc => ⟨fun ht => ?read, fun ht => ?single, fun hfits ht => ?multiple⟩
  case read =>
    cases (exec_encRd s).symm.trans ht
    exact runHost_parse_encoded (tail := []) hc (by simp)
  case single =>
    cases (exec_encWs s).symm.trans ht
    exact runHost_parse_encoded (tail := []) hc (by simp)
  case multiple =>
    cases (exec_encWm_of_fits hfits).symm.trans ht
    have hlen : (writeMultipleOf s).length ≤ 261 := by rw [writeMultipleOf_length]; omega
    have hqty : BitVec.ofNat 16 (vbSeq s s.vb.len.toNat).length = s.vb.len.setWidth 16 := by
      rw [vbSeq_length, BitVec.ofNat_toNat]
    rw [← hqty]
    exact runHost_parse_encoded hc hlen

end Sys2Proof.HostStream
end

section
/-! PROOFS. The host's port (spec/44_system.md R171, R172, R174, spec/10_state.md section 5, spec/00_scope.md section
5):
writes and reads target by target, the words of `STATUS` and `CTRL`, the resets, and the hex strings. -/

namespace Sys2Proof.HostPort

open Sys2Proof.Machine Sys2Proof.Laws Sys2Proof.RuleTable Sys2Proof.RuleDecode Sys2Proof.HostStream

/-! ### The words of `STATUS` and `CTRL` (R34, R36) -/

theorem statusWord_err (st : Status) : (statusWord st).setWidth 8 = errCode st.err := by
  ext i hi
  interval_cases i <;> simp [statusWord]

theorem bit01_getLsbD_zero (b : Bool) : (BitVec.ofNat 32 (bit01 b)).getLsbD 0 = b := by cases b <;> rfl

theorem bit01_getLsbD_succ (b : Bool) (i : Nat) : (BitVec.ofNat 32 (bit01 b)).getLsbD (i + 1) = false := by
  cases b with
  | false => simp [bit01]
  | true => simp [bit01]

/-- The outcome's eight bits stand below the flags. -/
theorem errCode_getLsbD_high (e : ErrCode) {i : Nat} (hi : 8 ≤ i) : ((errCode e).setWidth 32).getLsbD i = false := by
  rw [BitVec.getLsbD_setWidth, BitVec.getLsbD_of_ge _ _ hi, Bool.and_false]

/-- A flag put at a bit is that bit alone. -/
theorem flag_getLsbD (b : Bool) {n i : Nat} (hn : n < 32) :
    (BitVec.ofNat 32 (bit01 b) <<< n).getLsbD i = (decide (i = n) && b) := by
  rw [BitVec.getLsbD_shiftLeft]
  obtain hlt | rfl | hgt := Nat.lt_trichotomy i n
  · simp [hlt, hlt.ne]
  · rw [Nat.sub_self, bit01_getLsbD_zero]
    simp [hn]
  · obtain ⟨d, rfl⟩ : ∃ d, i = n + (d + 1) := ⟨i - n - 1, by omega⟩
    rw [Nat.add_sub_cancel_left, bit01_getLsbD_succ]
    simp

theorem statusWord_getLsbD (st : Status) {i : Nat} (hi : 8 ≤ i) : (statusWord st).getLsbD i =
    (decide (i = 8) && st.isexc || decide (i = 9) && st.crcok || decide (i = 10) && st.rav) := by
  rw [statusWord, BitVec.getLsbD_or, BitVec.getLsbD_or, BitVec.getLsbD_or, errCode_getLsbD_high _ hi, Bool.false_or,
    flag_getLsbD _ (by decide), flag_getLsbD _ (by decide), flag_getLsbD _ (by decide)]

/-- Settles O49, bit by bit. -/
theorem statusAndControlWords : Obligations.StatusAndControlWords := by
  refine ⟨fun st => ⟨statusWord_err st, ?isexc, ?crcok, ?rav, ?reserved⟩, fun b => ⟨bit01_getLsbD_zero b, ?ctrl⟩,
    fun s => ⟨rfl, rfl⟩, fun v s => rfl⟩
  case isexc => rw [statusWord_getLsbD st (by decide)]; simp
  case crcok => rw [statusWord_getLsbD st (by decide)]; simp
  case rav => rw [statusWord_getLsbD st (by decide)]; simp
  case reserved =>
    apply BitVec.eq_of_getLsbD_eq
    intro i _
    rw [BitVec.getLsbD_ushiftRight, statusWord_getLsbD st (by omega)]
    have h8 : 11 + i ≠ 8 := by omega
    have h9 : 11 + i ≠ 9 := by omega
    have h10 : 11 + i ≠ 10 := by omega
    simp [h8, h9, h10]
  case ctrl => cases b <;> rfl

/-! ### Host writes (R171, R41, R37) -/

/-- A change of what the host writes is no change of a result. -/
theorem sameResults_inputs (s : State) (op : Operands) (ib : InputBuffer) (vb : ValueBuffer) (strict : Bool) :
    SameResults s { s with op := op, ib := ib, vb := vb, strict := strict } := by
  refine ⟨⟨rfl, rfl, rfl⟩, ?checksum, ?output, ?request, ?response, ?extraction, ?block, rfl⟩
  case checksum => rfl
  case output => exact ⟨rfl, fun _ => rfl⟩
  case request => rfl
  case response => exact ⟨rfl, rfl, rfl, rfl, rfl, fun _ => rfl⟩
  case extraction => rfl
  case block => exact ⟨rfl, rfl, rfl, rfl, fun _ => rfl⟩

theorem num_ofNat {w v : Nat} (hv : v < 2 ^ w) : HostValue.num (BitVec.ofNat w v).toNat = .num v := by
  rw [BitVec.toNat_ofNat, Nat.mod_eq_of_lt hv]

theorem ctrlWord_testBit (v : Nat) : (ctrlWord (v.testBit 0)).toNat = v % 2 := by
  rw [Nat.testBit_zero]
  obtain h | h := Nat.mod_two_eq_zero_or_one v <;> simp [ctrlWord, bit01, h]

theorem ibByte_write (s : State) (i j : Nat) (v : Byte) :
    ibByte { s with ib := { s.ib with cells := Memory.write 0 s.ib.cells i v } } j = if j = i then v else ibByte s j :=
  read_write s.ib.cells i j v

theorem vbCell_write (s : State) (i j : Nat) (v : Reg16) :
    vbCell { s with vb := { s.vb with cells := Memory.write 0 s.vb.cells i v } } j = if j = i then v else vbCell s j :=
  read_write s.vb.cells i j v

/-- An admitted write: the target reads back, the other targets and all results are as before. -/
theorem hostWrite_admitted {s : State} {tg : Target} {v n : Nat} (hw : writeWidth s.cfg tg = some n) (hv : v < 2 ^ n) :
    ∃ t, hostWrite tg v s = .next t ∧ readTarget t tg = some (.num (if tg = .ctrl then v % 2 else v)) ∧
      (∀ tg', tg' ≠ tg → readTarget t tg' = readTarget s tg') ∧ SameResults s t := by
  cases tg with
  | opUnit | opAddr | opQty | iblen | vlen =>
    cases hw
    refine ⟨_, if_pos hv, congrArg some (num_ofNat hv), fun tg' hne => ?_, sameResults_inputs s _ _ _ _⟩
    cases tg' <;> first | rfl | exact absurd rfl hne
  | ctrl =>
    cases hw
    refine ⟨_, if_pos hv, congrArg (fun m => some (HostValue.num m)) (ctrlWord_testBit v), fun tg' hne => ?_,
      sameResults_inputs s _ _ _ _⟩
    cases tg' <;> first | rfl | exact absurd rfl hne
  | ib i =>
    obtain ⟨hi, hn⟩ := Option.ite_none_right_eq_some.mp hw
    cases hn
    refine ⟨_, (if_pos hi).trans (if_pos hv), ?same, fun tg' hne => ?other, sameResults_inputs s _ _ _ _⟩
    case same =>
      rw [readTarget, ibByte_write, if_pos rfl, num_ofNat hv]
      exact if_pos hi
    case other =>
      cases tg' with
      | ib j =>
        have hj : j ≠ i := fun h => hne (h ▸ rfl)
        rw [readTarget, ibByte_write, if_neg hj]
        rfl
      | _ => rfl
  | vb i =>
    obtain ⟨hi, hn⟩ := Option.ite_none_right_eq_some.mp hw
    cases hn
    refine ⟨_, (if_pos hi).trans (if_pos hv), ?same, fun tg' hne => ?other, sameResults_inputs s _ _ _ _⟩
    case same =>
      rw [readTarget, vbCell_write, if_pos rfl, num_ofNat hv]
      exact if_pos hi
    case other =>
      cases tg' with
      | vb j =>
        have hj : j ≠ i := fun h => hne (h ▸ rfl)
        rw [readTarget, vbCell_write, if_neg hj]
        rfl
      | _ => rfl
  | _ => cases hw

theorem hostWrite_too_wide {s : State} {tg : Target} {v n : Nat} (hw : writeWidth s.cfg tg = some n) (hv : 2 ^ n ≤ v) :
    hostWrite tg v s = .refused (.valueTooWide tg) := by
  cases tg with
  | opUnit | opAddr | opQty | iblen | vlen | ctrl => cases hw; exact if_neg hv.not_gt
  | ib i | vb i =>
    obtain ⟨hi, hn⟩ := Option.ite_none_right_eq_some.mp hw
    cases hn
    exact (if_pos hi).trans (if_neg hv.not_gt)
  | _ => cases hw

theorem hostWrite_not_writable {s : State} {tg : Target} (v : Nat) (hw : writeWidth s.cfg tg = none)
    (hcmd : tg ≠ .cmd) :
    hostWrite tg v s = .refused (.writeNotAdmitted tg) := by
  cases tg with
  | opUnit | opAddr | opQty | iblen | vlen | ctrl => cases hw
  | ib i => exact if_neg fun hi => by rw [writeWidth, if_pos hi] at hw; cases hw
  | vb i => exact if_neg fun hi => by rw [writeWidth, if_pos (show i < 127 from hi)] at hw; cases hw
  | cmd => exact absurd rfl hcmd
  | _ => rfl

/-- Settles O47: admitted, too wide, or not writable. -/
theorem hostWritesStoreOnlyTheirTarget : Obligations.HostWritesStoreOnlyTheirTarget :=
  ⟨fun _ _ _ _ hw hv => hostWrite_admitted hw hv, fun _ _ _ _ hw hv => ⟨_, hostWrite_too_wide hw hv⟩,
    fun _ _ v hw hcmd => ⟨_, hostWrite_not_writable v hw hcmd⟩, fun s _ hv => hostWrite_cmd hv s,
    fun _ _ hv => if_neg hv.not_gt⟩

/-! ### Host reads (R172, R32, R57) -/

theorem hostRead_of_some {s : State} {tg : Target} {v : HostValue} (h : readTarget s tg = some v) :
    hostRead tg s = .next { s with delivered := some v } := by
  rw [hostRead, h]

theorem hostRead_of_none {s : State} {tg : Target} (h : readTarget s tg = none) :
    hostRead tg s = .refused (.readNotAdmitted tg) := by
  rw [hostRead, h]

theorem readTarget_delivered (s : State) (v : Option HostValue) (tg : Target) :
    readTarget { s with delivered := v } tg = readTarget s tg := by cases tg <;> rfl

theorem cellBelow_eq_none {bound i : Nat} {v : HostValue} : cellBelow bound i v = none ↔ bound ≤ i := by
  simp [cellBelow]

/-- Only the command port and the cells at or beyond their bound cannot be read. -/
theorem readTarget_eq_none (s : State) (tg : Target) : readTarget s tg = none ↔
    tg = .cmd ∨ (∃ i, tg = .ib i ∧ s.cfg.bufCap ≤ i) ∨ (∃ i, tg = .vb i ∧ 127 ≤ i) ∨
      (∃ i, tg = .ob i ∧ s.ob.len.toNat ≤ i) ∨ (∃ i, tg = .ra i ∧ s.p.ralen.toNat ≤ i) ∨
      ∃ i, tg = .fo i ∧ s.db.folen.toNat ≤ i := by
  cases tg <;> simp [readTarget, cellBelow_eq_none, vbCap]

/-- Settles O48: a read delivers a value and changes no register or cell, so the same read finds it again. -/
theorem hostReadsChangeNothing : Obligations.HostReadsChangeNothing := by
  refine ⟨fun s tg v h => ⟨_, hostRead_of_some h, rfl, ?again⟩, fun s tg => ⟨fun h => ⟨_, hostRead_of_none h⟩,
    ?refused⟩,
    readTarget_eq_none, fun s => ⟨⟨rfl, rfl, rfl⟩, ⟨rfl, rfl, fun i hi => if_pos hi, fun i hi => if_pos hi⟩,
      ⟨rfl, rfl, rfl⟩, ⟨rfl, fun i hi => if_pos hi⟩, ⟨rfl, rfl, rfl, rfl⟩,
      ⟨rfl, rfl, rfl, rfl, rfl, fun i hi => if_pos hi⟩, ⟨?tag, rfl⟩, ⟨rfl, rfl, rfl, rfl, fun i hi => if_pos hi⟩⟩⟩
  case again => exact hostRead_of_some ((readTarget_delivered s _ tg).trans h)
  case refused =>
    rintro ⟨r, hr⟩
    cases h : readTarget s tg with
    | none => rfl
    | some v => rw [hostRead_of_some h] at hr; cases hr
  case tag => rw [readTarget]; cases s.xr.t <;> rfl

/-! ### Resets (R174, R200, R202) -/

theorem statusWord_reset : statusWord BlockState.reset.status = 0 := by decide

/-- Settles O45, target by target. -/
theorem resetValuesAreTheSpecs : Obligations.ResetValuesAreTheSpecs := by
  refine fun c => ⟨fun tg v h => ?value, fun i => ⟨rfl, rfl, rfl⟩, fun i hi => if_pos hi, fun i hi => if_pos hi, rfl⟩
  cases tg with
  | ib i | vb i =>
    obtain ⟨-, hv⟩ := Option.ite_none_right_eq_some.mp h
    cases hv
    rfl
  | status => cases h; exact congrArg (fun w : CmdWord => HostValue.num w.toNat) statusWord_reset
  | _ => cases h <;> rfl

/-- Settles O46: both resets write the one reset state. -/
theorem softResetIsHardwareReset : Obligations.SoftResetIsHardwareReset :=
  ⟨by decide, fun _ => ⟨_, rfl, rfl, rfl, statusWord_reset, rfl, rfl, rfl, rfl, rfl, rfl, rfl, rfl,
    fun _ => ⟨rfl, rfl⟩, rfl⟩⟩

theorem step_of_ill_formed {s : State} (hc : configWf s.cfg = false) : step s = .fault .configNotWellFormed := by
  cases hp : s.pending with
  | nil => simp [step, stepOnce, hp, hc]
  | cons a rest => simp [step, stepOnce, hp, blockStep, hc]

theorem rulesWf_of_empty {c : Config} (hrules : c.rules = []) : rulesWf c = true := by
  simp [rulesWf, wfCount, wfKeyUnique, hrules]

/-- Settles O44: the empty table passes its checks and has no rule to select. -/
theorem illFormedConfigurationNeverLeavesReset : Obligations.IllFormedConfigurationNeverLeavesReset := by
  refine ⟨fun s hc => step_of_ill_formed hc,
    fun c hmin hmax hfoMin hfoMax hrules => (configWf_iff c).mpr ⟨hmin, hmax, hfoMin, hfoMax, rulesWf_of_empty hrules⟩,
    fun fc s hrules hrav => ⟨_, exec_rdeDecode_of_none hrav ?_, rfl, rfl, rfl⟩⟩
  rw [hrules]
  rfl

/-! ### Hex strings (R10, R12) -/

theorem hexDigit_digitChar : ∀ n < 16, hexDigit (digitChar n) = some n := by decide

theorem hexBytes_bytesHex (bs : List Byte) : hexBytes (bytesHex bs) = some bs := by
  induction bs with
  | nil => rfl
  | cons b bs ih =>
    have hhigh := hexDigit_digitChar (b.toNat / 16) (by have := b.isLt; omega)
    have hlow := hexDigit_digitChar (b.toNat % 16) (by omega)
    have hbyte : BitVec.ofNat 8 (16 * (b.toNat / 16) + b.toNat % 16) = b := by
      rw [Nat.div_add_mod, BitVec.ofNat_toNat, BitVec.setWidth_eq]
    simp only [bytesHex, hexBytes, hhigh, hlow, ih, hbyte]

theorem length_bytesHex (bs : List Byte) : (bytesHex bs).length = 2 * bs.length := by
  induction bs with
  | nil => rfl
  | cons b bs ih => rw [bytesHex, List.length_cons, List.length_cons, List.length_cons, ih, Nat.mul_succ]

/-- Settles O60, digit pair by digit pair. -/
theorem hexStringsRoundTrip : Obligations.HexStringsRoundTrip :=
  ⟨fun bs => ⟨hexBytes_bytesHex bs, length_bytesHex bs⟩, by decide⟩

end Sys2Proof.HostPort
end
